-- ==== Sys2Proof/Word.lean ====
section
/-!
DEFINITION. The plain word types of the DR-428 model: what the manual treats as bits is a bit vector; a count, a
number of a thing or an amount of money is a Nat.
-/

namespace Sys2Proof

/-- One byte of a cell, of a key frame or of a reply frame. -/
abbrev Byte := BitVec 8

/-- A two-byte field of a management cell or a programme notice. -/
abbrev Half := BitVec 16

/-- A four-byte field; also the local second count, which wraps from 4,294,967,295 to 0 (R41). -/
abbrev Word32 := BitVec 32

/-- The twelve notice flags as a set, bit 0 the first of R194's table (R196). -/
abbrev FlagSet := BitVec 12

end Sys2Proof
end

