-- ==== Sys2Proof/Syntax.lean ====
section
/-!
DEFINITION. The commands of the DR-428: one constructor of Instr for each row of spec/opcode_table.json, with the
operands the row's rule gives it. A number a management cell carries stands here as the cell carries it, so a code
or a value out of its range can be written and is then refused by the rule that owns it.
-/

namespace Sys2Proof

/-- The addressee of a management cell (section 10.1, R176). -/
inductive Target where
  | all
  | group (g : Nat)
  | room (n : Nat)
  | unit (u : Nat)
deriving DecidableEq, Repr

/-- Four PIN digits as SET PIN carries them, one byte each (R65, section 12.2). -/
structure PinDigits where
  d1 : Nat
  d2 : Nat
  d3 : Nat
  d4 : Nat
deriving DecidableEq, Repr

/-- What a programme notice's payload carries beside its slot code (R49, section 12.2). -/
structure NoticeFields where
  channel : Half
  programme : Half
  rating : BitVec 4
  priceClass : BitVec 4
  start : Word32
  stop : Word32
deriving DecidableEq, Repr

/-- The parameters of a slate header section as the cell carries them (R170, section 12.2): form 0 is CELL and 1 is
EMPTY; a fill field is an offset and a fill kind code; fields beyond the fill count are ignored. -/
structure SlateHeaderFields where
  form : Nat
  stream : Nat
  startMark : Nat
  length : Nat
  fillCount : Nat
  offset1 : Nat
  kind1 : Nat
  offset2 : Nat
  kind2 : Nat
deriving DecidableEq, Repr

/-- How one attempt of a store operation ended (R129, R134). A failed attempt, and one that power loss cuts off
(R135), has programmed some number of its fields, taken in the order the operation programs them. -/
inductive OpResult where
  | ok
  | fail (programmed : Nat)
deriving DecidableEq, Repr

/-- The commands and events of spec/opcode_table.json, in the table's order. -/
inductive Instr where
  /-- POWER_ON (R141). -/
  | powerOn
  /-- POWER_REMOVED (R135): the operation in flight, if any, had programmed this many of its fields. -/
  | powerRemoved (programmed : Nat)
  /-- SYNC_SEARCH (R2): in SEARCH, the header after `skipped` bytes none of which is 0xB8 (no byte is skipped
  within a run), with the cell it begins. -/
  | syncSearch (skipped : Nat) (bytes : List Byte)
  /-- CELL_RECEIVED (R3): in LOCKED, the 128 bytes at the expected position. -/
  | cellReceived (bytes : List Byte)
  /-- OUTPUT_SLOT (R164). -/
  | outputSlot
  /-- LOCAL_SECOND (R41). -/
  | localSecond
  /-- STREAM_LOST (R20) of a lane. -/
  | streamLost (lane : Nat)
  /-- KEY_WAIT_EXPIRY (R34) of a lane. -/
  | keyWaitExpiry (lane : Nat)
  /-- PROGRAMME_SWAP (R52) of a channel number. -/
  | programmeSwap (channel : Nat)
  /-- PROGRAMME_END (R52) of a channel number. -/
  | programmeEnd (channel : Nat)
  /-- PIN_ENTRY_TIMEOUT (R68). -/
  | pinEntryTimeout
  /-- CHANNEL_ENTRY_TIMEOUT (R150). -/
  | channelEntryTimeout
  /-- CUT_ALLOWANCE_END (R167). -/
  | cutAllowanceEnd
  /-- REFUSAL_EXPIRY (R111). -/
  | refusalExpiry
  /-- COMPARE (R89) of a meter. -/
  | compare (meter : Nat)
  /-- TERMINAL (R90) of a meter. -/
  | terminal (meter : Nat)
  /-- EXTENDED (R91) of a meter. -/
  | extended (meter : Nat)
  /-- FIRST_BYTE_EXPIRY (R198). -/
  | firstByteExpiry
  /-- FRAMING_ERROR (R198). -/
  | framingError
  /-- BAD_FRAME (R145). -/
  | badFrame
  /-- DIGIT (R148). -/
  | digit (d : Fin 10) (held : Bool)
  /-- ENTER (R150). -/
  | enter (held : Bool)
  /-- CH_PLUS (R153). -/
  | chPlus (held : Bool)
  /-- CH_MINUS (R153). -/
  | chMinus (held : Bool)
  /-- BUY (R110). -/
  | buy (held : Bool)
  /-- CANCEL (R155). -/
  | cancel (held : Bool)
  /-- LOCK (R73). -/
  | lock (held : Bool)
  /-- RATE (R67). -/
  | rate (held : Bool)
  /-- UNASSIGNED_KEY_CODE (R146): a key code 17..127. -/
  | unassignedKeyCode (code : Nat) (held : Bool)
  /-- TIME_BEACON (R44). -/
  | timeBeacon (time : Word32)
  /-- CURRENT_NOTICE (R51). -/
  | currentNotice (fields : NoticeFields)
  /-- NEXT_NOTICE (R50). -/
  | nextNotice (fields : NoticeFields)
  /-- ASSIGN_ROOM (R183). -/
  | assignRoom (target : Target) (room group : Nat)
  /-- RESTART (R184). -/
  | restart (target : Target)
  /-- LOAD_LANE (R7): an absent key slot is `none`. -/
  | loadLane (target : Target) (lane stream kind package : Nat) (keySlot : Option Nat)
      (firstBlock blockCount watchCode : Nat)
  /-- SET_LANE_RESPONSE (R9): 0 IDLE, 1 HOLD, 2 PASS, 3 BLOCK. -/
  | setLaneResponse (target : Target) (lane response : Nat)
  /-- LOAD_KEY (R27): phase 0 is A and 1 is B. -/
  | loadKey (target : Target) (slot phase : Nat) (key : Word32)
  /-- CLEAR_KEY (R28). -/
  | clearKey (target : Target) (slot phase : Nat)
  /-- SET_PACKAGES (R39): bit p is package p. -/
  | setPackages (target : Target) (set : Word32)
  /-- LOAD_CHANNEL (R159): form 0 is ENTRY and 1 is EMPTY; an absent sound lane is `none`. -/
  | loadChannel (target : Target) (entry form number picture : Nat) (sound : Option Nat)
      (package defaultClass pay : Nat)
  /-- LOAD_RATING_MAP (R57). -/
  | loadRatingMap (target : Target) (classes : List Nat)
  /-- SET_CEILING (R59): scope 0 is STAY and 1 is STANDING; an absent threshold is `none`. -/
  | setCeiling (target : Target) (ceiling scope : Nat) (threshold : Option Nat)
  /-- SET_PIN (R65): `none` is UNSET. -/
  | setPin (target : Target) (pin : Option PinDigits)
  /-- SET_UNLOCK_MINUTES (R75). -/
  | setUnlockMinutes (target : Target) (minutes : Nat)
  /-- LOAD_PRICE (R96). -/
  | loadPrice (target : Target) (priceClass : Nat) (price : Half) (rentalMinutes previewSeconds : Nat)
  /-- SET_BILLING (R98). -/
  | setBilling (target : Target) (enabled taxRate dayCap dayStart defaultCredit : Nat)
  /-- SET_CREDIT (R99). -/
  | setCredit (target : Target) (limit : Nat)
  /-- EXTEND_RENTAL (R120). -/
  | extendRental (target : Target) (record minutes : Nat)
  /-- CLOSE_FOLIO (R139). -/
  | closeFolio (target : Target) (folio force : Nat)
  /-- LOAD_SLATE_HEADER (R170): slate kinds 0..8 in the order of the slate list. -/
  | loadSlateHeader (target : Target) (kind position : Nat) (fields : SlateHeaderFields)
  /-- LOAD_SLATE_PAYLOAD (R170): payload section 0, 1 or 2, of 40 bytes. -/
  | loadSlatePayload (target : Target) (kind position sect : Nat) (bytes : List Byte)
  /-- SET_CUT_MODE (R174): 0 IMMEDIATE, 1 BOUNDARY. -/
  | setCutMode (target : Target) (mode : Nat)
  /-- POLL_STATUS (R189). -/
  | pollStatus (target : Target)
  /-- POLL_RECORDS (R190). -/
  | pollRecords (target : Target) (first count : Nat)
  /-- POLL_LANE (R192). -/
  | pollLane (target : Target) (lane : Nat)
  /-- SETTLE (R193). -/
  | settle (target : Target) (folio through : Nat)
  /-- CLEAR_NOTICES (R194): two bytes, bits 12..15 ignored (R196). -/
  | clearNotices (target : Target) (flags : Half)
  /-- SET_NOTICE_MASK (R194). -/
  | setNoticeMask (target : Target) (flags : Half)
  /-- UNKNOWN_COMMAND (R178). -/
  | unknownCommand (target : Target)
  /-- APPEND_COMPLETES (R131). -/
  | appendCompletes (result : OpResult)
  /-- ADVANCE_COMPLETES (R131). -/
  | advanceCompletes (result : OpResult)
  /-- ADVANCE_RANGE_COMPLETES (R132). -/
  | advanceRangeCompletes (result : OpResult)
  /-- WRITE_EXTENSION_COMPLETES (R121). -/
  | writeExtensionCompletes (result : OpResult)
  /-- WRITE_SETTINGS_COMPLETES (R136). -/
  | writeSettingsCompletes (result : OpResult)
  /-- ERASE_SECTOR_COMPLETES (R140). -/
  | eraseSectorCompletes (result : OpResult)
  /-- CLOSE_MARK_COMPLETES (R137). -/
  | closeMarkCompletes (result : OpResult)
  /-- SCAN (R144). -/
  | scan
  /-- FRAME_SENT (R187). -/
  | frameSent
  /-- FIRST_BYTE_RECEIVED (R198). -/
  | firstByteReceived (byte : Byte)
deriving DecidableEq, Repr

end Sys2Proof
end

