-- ==== Sys2Proof/Decode.lean ====
section
/-!
DEFINITION. Reading a command from the bits the opcode table gives it. The table of this hardware gives no row any
bits: its rows are events and commands of a block, not words (log entry 13). The cells and frames the block receives
are read in Machine/Formats.lean.
-/

namespace Sys2Proof

/-- No row of spec/opcode_table.json has bits, so no word spells a command. -/
def decodeTableWord (_nbits _w : Nat) : Option Instr := none

end Sys2Proof
end

