-- ==== Sys2Proof/Config.lean ====
section
/-!
DEFINITION. What one part fixes for itself and the manual leaves open (log entry 1): the unit identifier.
-/

namespace Sys2Proof

/-- The part's unit identifier less one: the manual gives every part a different 48-bit identifier and none the
value 0 (In-Band Management, head of the chapter). No body: nothing can be proved of its value. -/
opaque Config.unitIndex : Fin 281474976710655

/-- The unit identifier, 1..281,474,976,710,655 (In-Band Management, head of the chapter). -/
def Config.unitId : Nat := Config.unitIndex.val + 1

end Sys2Proof
end

