-- ==== Sys2Proof/Machine/State.lean ====
section
/-!
DEFINITION. Everything the manual gives the DR-428 to hold, block by block, as plain data; the reasons a step can stop;
and the state right after power is first applied to a part whose folio store has never been written (log entry 2).
-/

namespace Sys2Proof.Machine

/-! ## Cells, lanes and keys (Cell Stream and Lanes; Keys and Descrambling) -/

/-- The key mark of a cell with a good header (section 12.1); the fourth code is header damage (R1). -/
inductive KeyMark where
  | clear | phaseA | phaseB
deriving DecidableEq, Repr

/-- A cell with a good header (section 12.1). The sync value and the header check follow from the rest. -/
structure Cell where
  stream : Nat
  seq : Nat
  mark : KeyMark
  start : Bool
  spareBits : BitVec 5
  length : Nat
  spare5 : Byte
  spare6 : Byte
  payload : List Byte
deriving DecidableEq, Repr

/-- The null cell the part writes (R197). -/
def Cell.null : Cell :=
  { stream := 4095, seq := 0, mark := .clear, start := false, spareBits := 0, length := 0, spare5 := 0, spare6 := 0,
    payload := List.replicate 120 0 }

/-- Sync state (section 1.1). -/
inductive SyncState where
  | search | locked
deriving DecidableEq, Repr

/-- Cell intake (section 1.1). -/
structure Intake where
  sync : SyncState
  goodRun : Nat
  damageRun : Nat
  damageCount : Nat
  /-- In LOCKED the expected position of the next header; in SEARCH with good run 0 the byte the search goes on
  from, else the position of the header examined next. Counted in input bytes since power-on (log entry 5). -/
  position : Nat
  /-- In SEARCH with a good run above 0, the position of the candidate header (R2). -/
  candidate : Nat
  /-- The model's own count of cells accepted by lanes, from which R165's acceptance order is read (log entry 6). -/
  accepted : Nat
deriving DecidableEq, Repr

/-- The kind of a lane (section 1.2). -/
inductive LaneKind where
  | picture | sound
deriving DecidableEq, Repr

/-- The response of a lane (section 1.4). -/
inductive Response where
  | idle | hold | pass | block
deriving DecidableEq, Repr

/-- The stream watch of a lane (section 1.7). -/
inductive Watch where
  | unarmed | armed | lost
deriving DecidableEq, Repr

/-- The two phases of a key slot (section 2.1). -/
inductive Phase where
  | a | b
deriving DecidableEq, Repr

/-- The key status of a lane (section 2.3). -/
inductive KeyStatus where
  | keyed
  | keywait (start : Word32) (slot : Nat) (phase : Phase)
  | keyless
deriving DecidableEq, Repr

/-- The six configuration fields LOAD LANE writes (section 1.2); an absent key slot marks a clear lane. -/
structure LaneConfig where
  stream : Nat
  kind : LaneKind
  package : Nat
  keySlot : Option Nat
  firstBlock : Nat
  blockCount : Nat
  watchCode : Nat
deriving DecidableEq, Repr

/-- A cell in a lane's area: clear, or held undescrambled in a key wait (R32), with its place in acceptance order. -/
structure AreaCell where
  cell : Cell
  held : Bool
  order : Nat
deriving DecidableEq, Repr

/-- A lane record with its area of the pool, oldest cell first (sections 1.2 and 1.8). -/
structure Lane where
  config : Option LaneConfig
  response : Response
  watch : Watch
  silence : Nat
  expected : Option Nat
  keyStatus : KeyStatus
  accepted : Nat
  discontinuities : Nat
  overflowDrops : Nat
  keyMisses : Nat
  area : List AreaCell
deriving DecidableEq, Repr

/-- A lane after power-on and RESTART (section 1.2, R26). -/
def Lane.initial : Lane :=
  { config := none, response := .idle, watch := .unarmed, silence := 0, expected := none, keyStatus := .keyed,
    accepted := 0, discontinuities := 0, overflowDrops := 0, keyMisses := 0, area := [] }

/-- A key slot: each phase a key value or absent (section 2.1). -/
structure KeySlot where
  a : Option Word32
  b : Option Word32
deriving DecidableEq, Repr

/-! ## Programme notices and hotel time -/

/-- A programme record (section 3.4). -/
structure Programme where
  id : Nat
  rating : Nat
  priceClass : Nat
  start : Nat
  stop : Nat
deriving DecidableEq, Repr

/-- A notice entry: the current and next records of a channel entry's channel (section 3.4). -/
structure NoticeEntry where
  current : Option Programme
  next : Option Programme
deriving DecidableEq, Repr

/-- The notice table and hotel time (sections 3.2 and 3.4). Entry e of `entries` belongs to entry e of the channel
table. -/
structure Notices where
  /-- `none` is UNSET. -/
  hotelTime : Option Nat
  restorationPending : Bool
  discardCount : Nat
  entries : List NoticeEntry
deriving DecidableEq, Repr

/-! ## Rating lock -/

/-- PIN entry (section 4.5): RATE_DIGIT, or COLLECTING with its purpose, the digits collected oldest first and the
last key second; an UNLOCK collection carries its channel of entry and a RAISE its target. -/
inductive PinEntry where
  | idle
  | rateDigit (lastKey : Word32)
  | unlock (channel : Nat) (digits : List Nat) (lastKey : Word32)
  | raise (target : Nat) (digits : List Nat) (lastKey : Word32)
deriving DecidableEq, Repr

/-- The rating lock (sections 4.1 to 4.6). -/
structure RatingLock where
  map : List Nat
  standingF : Nat
  stayF : Nat
  g : Nat
  r : Nat
  /-- `none` is UNSET. -/
  pin : Option PinDigits
  entry : PinEntry
  wrongCount : Nat
  unlockMinutes : Nat
deriving DecidableEq, Repr

/-! ## Meters -/

/-- The use of a meter (section 5.1). -/
inductive MeterUse where
  | free | unlock | lockout | preview | rental
deriving DecidableEq, Repr

/-- The gating of a meter (section 5.1). -/
inductive Gating where
  | wall | viewing
deriving DecidableEq, Repr

/-- A meter record (section 5.1). -/
structure Meter where
  use : MeterUse
  count : Nat
  period : Option Nat
  compare1 : Option Nat
  buffered : Option Nat
  gating : Option Gating
  programme : Option Nat
  channel : Option Nat
  record : Option Nat
  hold : Option Nat
deriving DecidableEq, Repr

/-- A FREE meter with no commit hold (R78). -/
def Meter.free : Meter :=
  { use := .free, count := 0, period := none, compare1 := none, buffered := none, gating := none, programme := none,
    channel := none, record := none, hold := none }

/-! ## Purchases and charges -/

/-- A price table entry (section 6.1). -/
structure Price where
  price : Nat
  rentalMinutes : Nat
  previewSeconds : Nat
deriving DecidableEq, Repr

/-- The state of a preview list entry (section 6.4). -/
inductive PreviewState where
  | running | buying
deriving DecidableEq, Repr

/-- A preview list entry (section 6.4). -/
structure Preview where
  programme : Nat
  channel : Nat
  record : Nat
  meter : Nat
  state : PreviewState
deriving DecidableEq, Repr

/-- The kind of an accepted commit (section 6.4). -/
inductive CommitKind where
  | fromPreview | direct
deriving DecidableEq, Repr

/-- A commit list entry (section 6.4). -/
structure Commit where
  programme : Nat
  record : Nat
  meter : Nat
  charge : Nat
  time : Nat
  kind : CommitKind
deriving DecidableEq, Repr

/-- The extension of a rental (section 6.4). -/
inductive Extension where
  | none | requested | written
deriving DecidableEq, Repr

/-- A rental table entry (section 6.4). -/
structure Rental where
  programme : Nat
  record : Nat
  meter : Nat
  endTime : Nat
  extension : Extension
deriving DecidableEq, Repr

/-- The nine slates in the order of the slate list (section 1.5 of the introduction, R199). -/
inductive Slate where
  | noSignal | noKey | notSubscribed | locked | pin | offer | credit | wait | unavailable
deriving DecidableEq, Repr

/-- The refusal a refused BUY leaves (R111). -/
structure BuyRefusal where
  slate : Slate
  programme : Nat
  channel : Nat
  expiry : Word32
deriving DecidableEq, Repr

/-- The purchase unit (sections 6.1, 6.2 and 6.4). -/
structure Purchases where
  prices : List Price
  billing : Bool
  taxRate : Nat
  dayCap : Nat
  dayStart : Nat
  defaultCredit : Nat
  credit : Nat
  previews : List Preview
  commits : List Commit
  rentals : List Rental
  marking : List Nat
  refusal : Option BuyRefusal
deriving DecidableEq, Repr

/-! ## Folio store -/

/-- Cut mode (Channel Selection and Output). -/
inductive CutMode where
  | immediate | boundary
deriving DecidableEq, Repr

/-- The standing settings and the room assignment, as the settings page keeps them (section 7.5). -/
structure Standing where
  f : Nat
  r : Nat
  unlockMinutes : Nat
  billing : Bool
  taxRate : Nat
  dayCap : Nat
  dayStart : Nat
  defaultCredit : Nat
  cutMode : CutMode
  room : Nat
  group : Nat
deriving DecidableEq, Repr

/-- The values of section 7.5 for a page that holds none. -/
def Standing.initial : Standing :=
  { f := 7, r := 8, unlockMinutes := 60, billing := false, taxRate := 0, dayCap := 0, dayStart := 0,
    defaultCredit := 0, cutMode := .immediate, room := 0, group := 0 }

/-- The settings page, each field erased (`none`, `false`) or programmed (R124, section 7.5). -/
structure Page where
  folio : Option Nat
  f : Option Nat
  r : Option Nat
  unlockMinutes : Option Nat
  billing : Option Bool
  taxRate : Option Nat
  dayCap : Option Nat
  dayStart : Option Nat
  defaultCredit : Option Nat
  cutMode : Option CutMode
  room : Option Nat
  group : Option Nat
  validMark : Bool
  closeMark : Bool
deriving DecidableEq, Repr

/-- The erased settings page. -/
def Page.erased : Page :=
  { folio := none, f := none, r := none, unlockMinutes := none, billing := none, taxRate := none, dayCap := none,
    dayStart := none, defaultCredit := none, cutMode := none, room := none, group := none, validMark := false,
    closeMark := false }

/-- A record slot, each field erased or programmed; the state field is its five marks (section 7.2, R126). -/
structure Slot where
  folio : Option Nat
  number : Option Nat
  programme : Option Nat
  channel : Option Nat
  priceClass : Option Nat
  minutes : Option Nat
  price : Option Nat
  tax : Option Nat
  charge : Option Nat
  commitTime : Option Nat
  extension : Option Nat
  opened : Bool
  previewed : Bool
  committed : Bool
  reported : Bool
  settled : Bool
deriving DecidableEq, Repr

/-- The erased slot. -/
def Slot.erased : Slot :=
  { folio := none, number := none, programme := none, channel := none, priceClass := none, minutes := none,
    price := none, tax := none, charge := none, commitTime := none, extension := none, opened := false,
    previewed := false, committed := false, reported := false, settled := false }

/-- A record sector: 64 slots. `partlyErased` from the start of its ERASE SECTOR until that completes (R127, R142):
the sector holds no records then, and is not wholly erased. -/
structure Sector where
  slots : List Slot
  partlyErased : Bool
deriving DecidableEq, Repr

/-- A wholly erased sector. -/
def Sector.erased : Sector :=
  { slots := List.replicate 64 Slot.erased, partlyErased := false }

/-- The price fields a commit writes (R131). -/
structure CommitFields where
  price : Nat
  tax : Nat
  charge : Nat
  time : Nat
deriving DecidableEq, Repr

/-- What an APPEND programs: an OPENED record, or with `commit` a COMMITTED one (R131). -/
structure NewRecord where
  folio : Nat
  number : Nat
  programme : Nat
  channel : Nat
  priceClass : Nat
  minutes : Nat
  commit : Option CommitFields
deriving DecidableEq, Repr

/-- The target of an ADVANCE (R131). -/
inductive AdvanceTarget where
  | previewed
  | committed (fields : CommitFields)
deriving DecidableEq, Repr

/-- The target of an ADVANCE RANGE (R132). -/
inductive RangeTarget where
  | reported | settled
deriving DecidableEq, Repr

/-- A store operation (section 7.4). A WRITE SETTINGS holds the folio number and the values it took at its start
(R136), absent until it has started; `ending` marks the one that ends a close (R140). -/
inductive StoreOp where
  | append (record : NewRecord)
  | advance (number : Nat) (target : AdvanceTarget)
  | advanceRange (target : RangeTarget) (numbers : List Nat)
  | writeExtension (number minutes : Nat)
  | writeSettings (ending : Bool) (values : Option (Nat × Standing))
  | eraseSector (sector : Nat)
  | closeMark
deriving DecidableEq, Repr

/-- An operation in the queue, whether its one retry is running, and whether the first attempt programmed a field
before it failed (R134). -/
structure QueuedOp where
  op : StoreOp
  retried : Bool
  wrote : Bool := false
deriving DecidableEq, Repr

/-- The folio store (section 7.1). The first operation of `queue` is the one in flight. -/
structure FolioStore where
  sectors : List Sector
  page : Page
  folio : Nat
  nextRecord : Nat
  queue : List QueuedOp
  fault : Bool
  closing : Bool
  scanList : List Nat
  /-- RESTART has been taken and its scan not yet made (R144). -/
  awaitingScan : Bool
  /-- Rental restoration has been handed over and waits for that scan (R143). -/
  restoreWaiting : Bool
  /-- The scan has resumed a close: no sector holds records from then on, until the close ends (R127, R142). -/
  resumed : Bool
deriving DecidableEq, Repr

/-! ## Guest keypad -/

/-- The keypad unit (section 8.1, R198). The channel entry is IDLE with no digits, else COLLECTING. -/
structure Keypad where
  digits : List Nat
  lastKeySecond : Option Word32
  lastKey : Option Nat
  errors : Nat
  firstByte : Option Byte
  /-- RESTART is the last event the part has taken: the model's field for what arrives together with it (R186, log
  entry 44). -/
  restarted : Bool
deriving DecidableEq, Repr

/-! ## Output composer -/

/-- A channel table entry (section 9.1). -/
structure ChannelEntry where
  number : Nat
  picture : Nat
  sound : Option Nat
  package : Nat
  defaultClass : Nat
  pay : Bool
deriving DecidableEq, Repr

/-- A view decision: SHOW or a slate (R162). -/
inductive View where
  | show
  | slate (kind : Slate)
deriving DecidableEq, Repr

/-- The output state with the cut start second of CUTTING and the slate in emission of SLATE: its kind, the position
last emitted and the slate sequence count (head of Channel Selection and Output). -/
inductive OutputState where
  | none
  | waitingStart
  | showing
  | cutting (start : Word32)
  | slate (kind : Slate) (last : Option Nat) (seq : Nat)
deriving DecidableEq, Repr

/-- The fill kinds of R173. -/
inductive FillKind where
  | price | rentalHours | previewLeft | creditLeft | pinMask | channel
deriving DecidableEq, Repr

/-- A fill field of a slate cell (section 9.7). -/
structure FillField where
  offset : Nat
  kind : FillKind
deriving DecidableEq, Repr

/-- The header section of a slate cell (section 9.7). -/
structure SlateHeader where
  stream : Nat
  start : Bool
  length : Nat
  fills : List FillField
deriving DecidableEq, Repr

/-- A slate position (section 9.7): BUILDING holds the payload sections received so far. -/
inductive SlatePosition where
  | empty
  | building (header : SlateHeader) (s0 s1 s2 : Option (List Byte))
  | ready (header : SlateHeader) (payload : List Byte)
deriving DecidableEq, Repr

/-- The output composer (head of Channel Selection and Output). Position p of slate kind k is entry 4k + p of
`slates`. -/
structure Composer where
  channels : List (Option ChannelEntry)
  tuned : Option Nat
  decision : Option View
  output : OutputState
  cutMode : CutMode
  slates : List SlatePosition
  /-- The cell the output port sent in its last slot (R164). -/
  port : Cell
deriving DecidableEq, Repr

/-! ## Management decoder and reply unit -/

/-- The names of section 10.2, in its order, and UNKNOWN. -/
inductive CommandKind where
  | assignRoom | restart | loadLane | setLaneResponse | loadKey | clearKey | setPackages | loadChannel
  | loadRatingMap | setCeiling | setPin | setUnlockMinutes | loadPrice | setBilling | setCredit | extendRental
  | closeFolio | loadSlate | setCutMode | poll | settle | clearNotices | setNoticeMask | unknown
deriving DecidableEq, Repr

/-- The refusal reasons of section 10.3, in its order. -/
inductive Reason where
  | busy | range | conflict | state | stale | full
deriving DecidableEq, Repr

/-- The management decoder (head of In-Band Management). -/
structure Management where
  unitId : Nat
  room : Nat
  group : Nat
  lastRefusal : Option (CommandKind × Reason)
  refusedCount : Nat
deriving DecidableEq, Repr

/-- The state the folio store reports (R128), coded as the status frame codes it (R199). -/
inductive StoreState where
  | ready | busy | closing | full | faulted
deriving DecidableEq, Repr

/-- The state of a record (R126). -/
inductive RecordState where
  | opened | previewed | committed | reported | settled
deriving DecidableEq, Repr

/-- The content of a status frame (R189). -/
structure StatusFrame where
  unitId : Nat
  room : Nat
  group : Nat
  folio : Nat
  store : StoreState
  flags : FlagSet
  mask : FlagSet
  folioTotal : Nat
  dayCharges : Nat
  credit : Nat
  lastRefusal : Option (CommandKind × Reason)
  refusedCount : Nat
  hotelTime : Option Nat
  tuned : Option Nat
  decision : Option View
  truncation : Nat
deriving DecidableEq, Repr

/-- The content of a record frame (R190). -/
structure RecordFrame where
  number : Nat
  slot : Slot
  state : RecordState
  /-- A purchase, read from the committed mark; else a preview. -/
  purchase : Bool
  rentalEnd : Option Nat
deriving DecidableEq, Repr

/-- The content of a lane frame (R192). -/
structure LaneFrame where
  number : Nat
  config : Option LaneConfig
  response : Response
  watch : Watch
  silence : Nat
  expected : Option Nat
  keyStatus : KeyStatus
  tuned : Bool
  accepted : Nat
  discontinuities : Nat
  overflowDrops : Nat
  keyMisses : Nat
  sync : SyncState
  damageCount : Nat
  discardCount : Nat
  keyErrors : Nat
deriving DecidableEq, Repr

/-- A reply frame (R199). -/
inductive ReplyFrame where
  | status (content : StatusFrame)
  | record (content : RecordFrame)
  | lane (content : LaneFrame)
deriving DecidableEq, Repr

/-- The reply unit (head of Upstream Reporting). -/
structure Reply where
  queue : List ReplyFrame
  flags : FlagSet
  mask : FlagSet
  /-- The attention line: true is asserted (R195). -/
  attention : Bool
  /-- The bytes of the frame whose last byte left the reply line last (R187, R199). -/
  line : List Byte
deriving DecidableEq, Repr

/-! ## The whole part -/

/-- What a local second has brought due and no command has yet taken (log entry 7): the follow-on events of a tick,
which the manual makes at that same tick and in either order. -/
inductive TickEvent where
  | streamLost (lane : Nat)
  | keyWaitExpiry (lane : Nat)
  | programmeSwap (channel : Nat)
  | programmeEnd (channel : Nat)
  | pinEntryTimeout
  | channelEntryTimeout
  | cutAllowanceEnd
  | refusalExpiry
  | compare (meter : Nat)
  | terminal (meter : Nat)
  | extended (meter : Nat)
deriving DecidableEq, Repr

/-- The state of the DR-428. -/
structure State where
  /-- Room power is applied. -/
  powered : Bool
  /-- The local second count (R41). -/
  second : Word32
  intake : Intake
  lanes : List Lane
  keys : List KeySlot
  /-- The package set: bit p is package p (R39). -/
  packages : Word32
  notices : Notices
  lock : RatingLock
  meters : List Meter
  buying : Purchases
  store : FolioStore
  keypad : Keypad
  composer : Composer
  management : Management
  reply : Reply
  /-- The model's own: events of the last local second not yet taken (log entry 7). -/
  due : List TickEvent
  /-- The model's own: the commands waiting, first in first out. -/
  pending : List Instr
deriving DecidableEq, Repr

/-- The reasons a step could stop with a fault. No meaning of this model faults: every command the manual describes
has an effect or, where it does not arise, none (log entry 4). -/
inductive Fault where
  /-- Raised by nothing; it stands so that the type of faults can be written down. Safe. -/
  | unused
deriving DecidableEq, Repr

/-- The reasons a step could be refused. -/
inductive Refusal where
  /-- Raised by an arm of exec whose command has no meaning yet; none is left. Safe. -/
  | notModelled (mnemonic : String)
deriving DecidableEq, Repr

/-! ## Power-on values of the blocks -/

/-- Cell intake at power-on (section 1.1, R5). -/
def Intake.initial : Intake :=
  { sync := .search, goodRun := 0, damageRun := 0, damageCount := 0, position := 0, candidate := 0, accepted := 0 }

/-- The notice table and hotel time at power-on (sections 3.2 and 3.4, R48). -/
def Notices.initial : Notices :=
  { hotelTime := none, restorationPending := true, discardCount := 0,
    entries := List.replicate 48 { current := none, next := none } }

/-- The rating lock at power-on with the page holding no standing settings (R76). -/
def RatingLock.initial : RatingLock :=
  { map := List.replicate 16 7, standingF := 7, stayF := 7, g := 7, r := 8, pin := none, entry := .idle,
    wrongCount := 0, unlockMinutes := 60 }

/-- The purchase unit at power-on with the page holding no standing settings (R123). -/
def Purchases.initial : Purchases :=
  { prices := List.replicate 16 { price := 0, rentalMinutes := 1, previewSeconds := 0 }, billing := false,
    taxRate := 0, dayCap := 0, dayStart := 0, defaultCredit := 0, credit := 0, previews := [], commits := [],
    rentals := [], marking := [], refusal := none }

/-- The keypad unit at power-on (section 8.1, R158). -/
def Keypad.initial : Keypad :=
  { digits := [], lastKeySecond := none, lastKey := none, errors := 0, firstByte := none,
    restarted := false }

/-- The output composer at power-on with the page holding no standing settings (R175). -/
def Composer.initial : Composer :=
  { channels := List.replicate 48 none, tuned := none, decision := none, output := .none, cutMode := .immediate,
    slates := List.replicate 36 .empty, port := Cell.null }

/-- The reply unit at power-on: POWER_ON alone set, the mask empty (R194). -/
def Reply.initial : Reply :=
  { queue := [], flags := 1, mask := 0, attention := false, line := [] }

/-- The state right after power-on of a part whose folio store is wholly erased (log entry 2). The scan found no
values in the settings page, so one WRITE SETTINGS is in flight with the values in force (R138, R141). -/
def State.reset : State :=
  { powered := true
    second := 0
    intake := Intake.initial
    lanes := List.replicate 24 Lane.initial
    keys := List.replicate 16 { a := none, b := none }
    packages := 0
    notices := Notices.initial
    lock := RatingLock.initial
    meters := List.replicate 8 Meter.free
    buying := Purchases.initial
    store :=
      { sectors := List.replicate 4 Sector.erased
        page := Page.erased
        folio := 1
        nextRecord := 1
        queue := [{ op := .writeSettings false (some (1, Standing.initial)), retried := false }]
        fault := false
        closing := false
        scanList := []
        awaitingScan := false
        restoreWaiting := false
        resumed := false }
    keypad := Keypad.initial
    composer := Composer.initial
    management := { unitId := Config.unitId, room := 0, group := 0, lastRefusal := none, refusedCount := 0 }
    reply := Reply.initial
    due := []
    pending := [] }

end Sys2Proof.Machine
end

