-- ==== Sys2Proof/Machine/Flags.lean ====
section
/-!
DEFINITION. The notice flags, the notice mask and the attention line that follows them (R194, R195).
-/

namespace Sys2Proof.Machine

/-- The twelve notice flags in the order of R194's table. -/
inductive NoticeFlag where
  | powerOn | purchase | previewEnded | rentalEnding | rentalExpired | lockout | streamLost | laneFault | keyMiss
  | storeError | commandRefused | closeDone
deriving DecidableEq, Repr

/-- The bit of a flag: its place in R194's table (R196). -/
def NoticeFlag.bit : NoticeFlag → Nat
  | .powerOn => 0
  | .purchase => 1
  | .previewEnded => 2
  | .rentalEnding => 3
  | .rentalExpired => 4
  | .lockout => 5
  | .streamLost => 6
  | .laneFault => 7
  | .keyMiss => 8
  | .storeError => 9
  | .commandRefused => 10
  | .closeDone => 11

/-- The set of one flag. -/
def NoticeFlag.set (f : NoticeFlag) : FlagSet := 1#12 <<< f.bit

/-- The attention line is asserted while a flag is both set and in the mask (R195). -/
def attentionOf (flags mask : FlagSet) : Bool := (flags &&& mask) != 0#12

/-- New flags and a new mask, with the attention line following at once (R195). -/
def Reply.withFlags (r : Reply) (flags mask : FlagSet) : Reply :=
  { r with flags := flags, mask := mask, attention := attentionOf flags mask }

/-- Set a notice flag; a flag already set stays set (R194). -/
def State.raise (f : NoticeFlag) (s : State) : State :=
  { s with reply := s.reply.withFlags (s.reply.flags ||| f.set) s.reply.mask }

/-- The twelve flags of the two bytes a management cell carries; bits 12..15 are ignored (R196). -/
def flagsOfHalf (h : Half) : FlagSet := h.setWidth 12

end Sys2Proof.Machine
end

