-- ==== Sys2Proof/Machine/Operands.lean ====
section
/-!
DEFINITION. The operands of management commands: which targets address the room (R176, R177), which targets a command
accepts (R178), and what each code of an enumerated field names (R196). A code with no value is `none`.
-/

namespace Sys2Proof.Machine

/-- Whether a management cell's target addresses this room (R176). -/
def State.addressed (s : State) : Target → Bool
  | .all => true
  | .group g => s.management.room != 0 && decide (g ≤ 63) && g == s.management.group
  | .room n => s.management.room != 0 && decide (1 ≤ n) && decide (n ≤ 9999) && n == s.management.room
  | .unit u => u != 0 && u == s.management.unitId

/-- ASSIGN ROOM accepts UNIT alone, RESTART and POLL accept ROOM alone, the rest any target (R178 check 3). -/
def targetAccepted : CommandKind → Target → Bool
  | .assignRoom, .unit _ => true
  | .assignRoom, _ => false
  | .restart, .room _ => true
  | .restart, _ => false
  | .poll, .room _ => true
  | .poll, _ => false
  | _, _ => true

/-- Whether the target is ALL or GROUP, which only tighten ceilings (R60). -/
def targetWide : Target → Bool
  | .all => true
  | .group _ => true
  | .room _ => false
  | .unit _ => false

/-- Lane kind codes (section 1.2 order). -/
def laneKindOf : Nat → Option LaneKind
  | 0 => some .picture
  | 1 => some .sound
  | _ => none

/-- Response codes: IDLE 0, HOLD 1, PASS 2, BLOCK 3 (R196). -/
def responseOf : Nat → Option Response
  | 0 => some .idle
  | 1 => some .hold
  | 2 => some .pass
  | 3 => some .block
  | _ => none

/-- Phase codes: A 0, B 1. -/
def phaseOf : Nat → Option Phase
  | 0 => some .a
  | 1 => some .b
  | _ => none

/-- Boolean bytes: any value other than 0 or 1 is refused RANGE (R196). DESIGN CHOICE (log entry 41): 1 is yes or set, 0 no
or clear. -/
def boolOf : Nat → Option Bool
  | 0 => some false
  | 1 => some true
  | _ => none

/-- Cut mode codes: IMMEDIATE 0, BOUNDARY 1. -/
def cutModeOf : Nat → Option CutMode
  | 0 => some .immediate
  | 1 => some .boundary
  | _ => none

/-- Fill kind codes in the order of R173. -/
def fillKindOf : Nat → Option FillKind
  | 0 => some .price
  | 1 => some .rentalHours
  | 2 => some .previewLeft
  | 3 => some .creditLeft
  | 4 => some .pinMask
  | 5 => some .channel
  | _ => none

/-- Slate kind codes in the order of the slate list. -/
def slateOf : Nat → Option Slate
  | 0 => some .noSignal
  | 1 => some .noKey
  | 2 => some .notSubscribed
  | 3 => some .locked
  | 4 => some .pin
  | 5 => some .offer
  | 6 => some .credit
  | 7 => some .wait
  | 8 => some .unavailable
  | _ => none

/-- The place of a slate in the slate list. -/
def Slate.index : Slate → Nat
  | .noSignal => 0
  | .noKey => 1
  | .notSubscribed => 2
  | .locked => 3
  | .pin => 4
  | .offer => 5
  | .credit => 6
  | .wait => 7
  | .unavailable => 8

/-- The command code of a command: its place in the table of section 10.2 (section 12.2); UNKNOWN is 23 (R199). -/
def CommandKind.code : CommandKind → Nat
  | .assignRoom => 0
  | .restart => 1
  | .loadLane => 2
  | .setLaneResponse => 3
  | .loadKey => 4
  | .clearKey => 5
  | .setPackages => 6
  | .loadChannel => 7
  | .loadRatingMap => 8
  | .setCeiling => 9
  | .setPin => 10
  | .setUnlockMinutes => 11
  | .loadPrice => 12
  | .setBilling => 13
  | .setCredit => 14
  | .extendRental => 15
  | .closeFolio => 16
  | .loadSlate => 17
  | .setCutMode => 18
  | .poll => 19
  | .settle => 20
  | .clearNotices => 21
  | .setNoticeMask => 22
  | .unknown => 23

/-- The fill fields a header section names: the first `fillCount` of its two, `none` for a count above 2 or an
unknown fill kind (R170 check 2, R196). -/
def fillsOf (h : SlateHeaderFields) : Option (List FillField) :=
  match h.fillCount with
  | 0 => some []
  | 1 => (fillKindOf h.kind1).map fun k1 => [{ offset := h.offset1, kind := k1 }]
  | 2 =>
    match fillKindOf h.kind1, fillKindOf h.kind2 with
    | some k1, some k2 => some [{ offset := h.offset1, kind := k1 }, { offset := h.offset2, kind := k2 }]
    | _, _ => none
  | _ => none

/-- Whether all four digits lie in 0..9 (R65). -/
def pinInRange (p : PinDigits) : Bool :=
  decide (p.d1 ≤ 9) && decide (p.d2 ≤ 9) && decide (p.d3 ≤ 9) && decide (p.d4 ≤ 9)

/-- The digits in the order typed (R68). -/
def pinList (p : PinDigits) : List Nat := [p.d1, p.d2, p.d3, p.d4]

end Sys2Proof.Machine
end

