-- ==== Sys2Proof/Machine/Ops.lean ====
section
/-!
DEFINITION. The named reads and writes of the parts of State that every block uses: counters, lanes, channel and notice
entries, meters, keys, the settings in force, and the recording of a refusal (R180).
-/

namespace Sys2Proof.Machine

/-- A counter's next value; it holds at 65,535 (section 1.4 of the introduction). -/
def countUp (n : Nat) : Nat := if n < 65535 then n + 1 else n

/-- A counter increased by k events, holding at 65,535. -/
def countUpBy (n k : Nat) : Nat := min 65535 (n + k)

/-- Local seconds from one count to a later one, mod 4,294,967,296 (R41). -/
def elapsed (start now : Word32) : Nat := (now - start).toNat

/-! ## Lanes and keys -/

def State.lane (s : State) (i : Nat) : Lane := s.lanes.getD i Lane.initial

def State.setLane (i : Nat) (l : Lane) (s : State) : State := { s with lanes := s.lanes.set i l }

/-- A lane is configured in HOLD, PASS and BLOCK (R6). -/
def Lane.configured (l : Lane) : Bool := l.response != .idle

def Lane.keySlot (l : Lane) : Option Nat := l.config.bind (·.keySlot)

/-- The watch interval, 2 to the power of the watch code (section 1.2). -/
def Lane.interval (l : Lane) : Nat :=
  match l.config with
  | some c => 2 ^ c.watchCode
  | none => 1

def KeySlot.phase (k : KeySlot) : Phase → Option Word32
  | .a => k.a
  | .b => k.b

def KeySlot.withPhase (k : KeySlot) (v : Option Word32) : Phase → KeySlot
  | .a => { k with a := v }
  | .b => { k with b := v }

def State.keySlot (s : State) (i : Nat) : KeySlot := s.keys.getD i { a := none, b := none }

/-- The key value of a phase of a slot, if present. -/
def State.keyOf (s : State) (slot : Nat) (p : Phase) : Option Word32 := (s.keySlot slot).phase p

/-! ## Channels, notices and the tuned channel -/

/-- The entry number of a channel number in the channel table. -/
def State.entryIndex (s : State) (n : Nat) : Option Nat :=
  s.composer.channels.findIdx? fun e => (e.map (·.number)) == some n

def State.entryAt (s : State) (i : Nat) : Option ChannelEntry := s.composer.channels.getD i none

/-- The channel entry of a channel number. -/
def State.entry (s : State) (n : Nat) : Option ChannelEntry := (s.entryIndex n).bind s.entryAt

def State.noticeAt (s : State) (i : Nat) : NoticeEntry := s.notices.entries.getD i { current := none, next := none }

def State.setNotice (i : Nat) (e : NoticeEntry) (s : State) : State :=
  { s with notices := { s.notices with entries := s.notices.entries.set i e } }

/-- A channel's current programme record. -/
def State.current (s : State) (n : Nat) : Option Programme := (s.entryIndex n).bind fun i => (s.noticeAt i).current

/-- The tuned channel's entry. -/
def State.tunedEntry (s : State) : Option ChannelEntry := s.composer.tuned.bind s.entry

/-- The tuned channel's current programme record. -/
def State.tunedCurrent (s : State) : Option Programme := s.composer.tuned.bind s.current

/-- Whether an entry names a lane as its picture or its sound lane. -/
def ChannelEntry.names (e : ChannelEntry) (i : Nat) : Bool := e.picture == i || e.sound == some i

/-- The lanes an entry names, the picture lane first. -/
def ChannelEntry.lanes (e : ChannelEntry) : List Nat := e.picture :: e.sound.toList

/-- A lane is tuned while the tuned channel names it (R6). -/
def State.tunedLane (s : State) (i : Nat) : Bool :=
  match s.tunedEntry with
  | some e => e.names i
  | none => false

/-- Whether any channel entry names the lane. -/
def State.laneNamed (s : State) (i : Nat) : Bool :=
  s.composer.channels.any fun e => match e with
    | some c => c.names i
    | none => false

/-- Whether the package is in the package set (R39). -/
def State.subscribed (s : State) (package : Nat) : Bool := s.packages.getLsbD package

/-! ## Meters -/

def State.meter (s : State) (i : Nat) : Meter := s.meters.getD i Meter.free

def State.setMeter (i : Nat) (m : Meter) (s : State) : State := { s with meters := s.meters.set i m }

/-! ## Prices -/

def State.priceEntry (s : State) (priceClass : Nat) : Price :=
  s.buying.prices.getD priceClass { price := 0, rentalMinutes := 1, previewSeconds := 0 }

/-- The price of a programme is the price of its class (R97). -/
def State.priceOf (s : State) (p : Programme) : Nat := (s.priceEntry p.priceClass).price

/-! ## Settings in force -/

/-- The standing settings and room assignment in force in the part (section 7.5). -/
def State.standing (s : State) : Standing :=
  { f := s.lock.standingF, r := s.lock.r, unlockMinutes := s.lock.unlockMinutes, billing := s.buying.billing,
    taxRate := s.buying.taxRate, dayCap := s.buying.dayCap, dayStart := s.buying.dayStart,
    defaultCredit := s.buying.defaultCredit, cutMode := s.composer.cutMode, room := s.management.room,
    group := s.management.group }

/-! ## Refusals -/

/-- A refusal records its kind and reason, counts, and raises COMMAND_REFUSED (R180). -/
def State.refuse (k : CommandKind) (r : Reason) (s : State) : State :=
  State.raise .commandRefused
    { s with management :=
      { s.management with lastRefusal := some (k, r), refusedCount := countUp s.management.refusedCount } }

end Sys2Proof.Machine
end

