-- ==== Sys2Proof/Machine/Meters.lean ====
section
/-!
DEFINITION. The meter bank: allocation, the owners' requests and the counting of a local second (R78 to R95).
-/

namespace Sys2Proof.Machine

/-- A meter is free for allocation while FREE with no commit hold (R79). -/
def Meter.allocatable (m : Meter) : Bool := m.use == .free && m.hold == none

/-- The free meter of 1..7 with the lowest index (R79). -/
def State.freeMeter (s : State) : Option Nat :=
  [1, 2, 3, 4, 5, 6, 7].find? fun i => (s.meter i).allocatable

/-- Compare 1 of a rental period (R78, R83). -/
def compare1For (period : Nat) : Option Nat := if 600 < period then some (period - 600) else none

/-- A meter in use PREVIEW as START PREVIEW sets it (R81). -/
def Meter.preview (programme channel record period : Nat) : Meter :=
  { use := .preview, count := 0, period := some period, compare1 := none, buffered := none, gating := some .viewing,
    programme := some programme, channel := some channel, record := some record, hold := none }

/-- A meter in use RENTAL from count 0 (R83, R84). -/
def Meter.rental (programme record period : Nat) : Meter :=
  { use := .rental, count := 0, period := some period, compare1 := compare1For period, buffered := none,
    gating := some .wall, programme := some programme, channel := none, record := some record, hold := none }

/-- A lock window on meter 0 (section 4.6). -/
def Meter.window (use : MeterUse) (period : Nat) : Meter :=
  { use := use, count := 0, period := some period, compare1 := none, buffered := none, gating := some .wall,
    programme := none, channel := none, record := none, hold := none }

/-- HOLD PREVIEW (R82). -/
def State.holdPreview (i programme : Nat) (s : State) : State :=
  let m := s.meter i
  if m.use = .preview ∧ m.programme = some programme ∧ m.hold = none then
    s.setMeter i { m with hold := some programme }
  else s

/-- RESERVE on the meter allocated (R82). -/
def State.reserveMeter (i programme : Nat) (s : State) : State :=
  s.setMeter i { Meter.free with hold := some programme }

/-- START RENTAL: taken if the meter's commit hold holds the programme id (R83). -/
def State.startRental (i programme record period : Nat) (s : State) : State :=
  if (s.meter i).hold = some programme then s.setMeter i (Meter.rental programme record period) else s

/-- SET BUFFERED PERIOD: taken if the meter is a rental bound to the record (R85). -/
def State.setBuffered (i record period : Nat) (s : State) : State :=
  let m := s.meter i
  if m.use = .rental ∧ m.record = some record then s.setMeter i { m with buffered := some period } else s

/-- RELEASE: taken if the meter is bound to, or held for, the programme id (R86). -/
def State.releaseMeter (i programme : Nat) (s : State) : State :=
  let m := s.meter i
  if m.programme = some programme ∨ m.hold = some programme then s.setMeter i Meter.free else s

/-- Meters 1..7 made FREE without events (R95). -/
def State.freePurchaseMeters (s : State) : State :=
  { s with meters := s.meters.take 1 ++ List.replicate 7 Meter.free }

/-- The VIEWING gate of a meter (R88). -/
def State.viewingGate (s : State) (m : Meter) : Bool :=
  match s.tunedEntry, s.tunedCurrent with
  | some e, some p =>
    s.composer.decision == some .show && m.programme == some p.id && (s.lane e.picture).watch != .lost
  | _, _ => false

/-- Whether a meter counts at a local second (R87). -/
def State.meterCounts (s : State) (m : Meter) : Bool :=
  m.use != .free && m.hold == none &&
    match m.gating with
    | some .wall => true
    | some .viewing => s.viewingGate m
    | none => false

/-- A meter after a local second (R87). -/
def State.meterTicked (s : State) (m : Meter) : Meter :=
  if s.meterCounts m then { m with count := m.count + 1 } else m

/-- The event a meter gives at a local second, from the meter as the tick has left it (R89 to R91). -/
def Meter.event (i : Nat) (m : Meter) : Option TickEvent :=
  if m.period = some m.count then
    if m.buffered = none then some (.terminal i) else some (.extended i)
  else if m.compare1 = some m.count then some (.compare i)
  else none

/-- A meter extended at the end of its period (R91). -/
def Meter.extendedBy (m : Meter) (period : Nat) : Meter :=
  { m with count := 0, period := some period, buffered := none, compare1 := compare1For period }

/-- The preview seconds left of a programme, from the PREVIEW meter bound to it (R93). -/
def State.previewLeft (s : State) (programme : Nat) : Option Nat :=
  (s.meters.find? fun m => m.use == .preview && m.programme == some programme).map fun m => m.period.getD 0 - m.count

end Sys2Proof.Machine
end

