-- ==== Sys2Proof/Machine/Store.lean ====
section
/-!
DEFINITION. The folio store: records and their states, derived sums, the store state, the operation queue, what each
operation programs step by step, and the close sequence's operations (R124 to R142).
-/

namespace Sys2Proof.Machine

/-! ## Records -/

def FolioStore.sector (f : FolioStore) (k : Nat) : Sector := f.sectors.getD k Sector.erased

/-- The slot of record number n: sector (n - 1) div 64, slot (n - 1) mod 64 (section 7.1). -/
def FolioStore.slot (f : FolioStore) (n : Nat) : Slot :=
  if n = 0 then Slot.erased else (f.sector ((n - 1) / 64)).slots.getD ((n - 1) % 64) Slot.erased

/-- Change the slot of record number n. -/
def FolioStore.onSlot (n : Nat) (g : Slot → Slot) (f : FolioStore) : FolioStore :=
  if n = 0 then f
  else
    let k := (n - 1) / 64
    let sec := f.sector k
    { f with sectors := f.sectors.set k { sec with slots := sec.slots.modify ((n - 1) % 64) g } }

/-- Every slot with its record number, in record-number order. -/
def FolioStore.slots (f : FolioStore) : List (Slot × Nat) := (f.sectors.flatMap (·.slots)).zipIdx 1

/-- Whether the slot holds a record of the folio (R126, R127): a spoiled slot has no opened mark (R125). -/
def Slot.isRecordOf (folio : Nat) (sl : Slot) : Bool := sl.opened && sl.folio == some folio

/-- The records that count, in record-number order: those of the current folio (R127); none from the scan that resumes
a close on (R142). -/
def FolioStore.records (f : FolioStore) : List (Slot × Nat) :=
  f.slots.filter fun p => !f.resumed && p.1.isRecordOf f.folio

/-- The state read from a record's marks (R126). -/
def Slot.state (sl : Slot) : RecordState :=
  if sl.settled then .settled
  else if sl.reported then .reported
  else if sl.committed then .committed
  else if sl.previewed then .previewed
  else .opened

/-- Whether the record's charge counts: COMMITTED, REPORTED or SETTLED (R101, R127). -/
def Slot.charged (sl : Slot) : Bool :=
  match sl.state with
  | .committed => true
  | .reported => true
  | .settled => true
  | .opened => false
  | .previewed => false

/-- The folio total (R101, R127). -/
def FolioStore.folioTotal (f : FolioStore) : Nat :=
  ((f.records.filter fun p => p.1.charged).map fun p => p.1.charge.getD 0).sum

/-- The hotel day of a hotel time under a day start hour, from day −1 (R46). -/
def hotelDay (dayStart time : Nat) : Int := ((time : Int) - 3600 * (dayStart : Int)) / 86400

/-- The hotel day index, which exists only while hotel time is set (R46). -/
def State.hotelDayIndex (s : State) : Option Int := s.notices.hotelTime.map (hotelDay s.buying.dayStart)

/-- Whether a record's commit time lies in the current hotel day (R101). -/
def State.inCurrentDay (s : State) (sl : Slot) : Bool :=
  match s.hotelDayIndex, sl.commitTime with
  | some d, some t => hotelDay s.buying.dayStart t == d
  | _, _ => false

/-- The day charges; 0 while hotel time is UNSET (R101). -/
def State.dayCharges (s : State) : Nat :=
  ((s.store.records.filter fun p => p.1.charged && s.inCurrentDay p.1).map fun p => p.1.charge.getD 0).sum

/-- The pending charges: commits whose record's committed mark is not yet programmed (R101). -/
def State.pendingCharges (s : State) : Nat :=
  ((s.buying.commits.filter fun c => !(s.store.slot c.record).committed).map (·.charge)).sum

/-- Whether the current folio holds a record of the programme in any state (R103). -/
def State.folioHolds (s : State) (programme : Nat) : Bool :=
  s.store.records.any fun p => p.1.programme == some programme

/-! ## Store state and acceptance -/

/-- The state the store reports (R128); BUSY while it awaits its scan after RESTART (R144). -/
def FolioStore.state (f : FolioStore) : StoreState :=
  if f.awaitingScan then .busy
  else if f.fault then .faulted
  else if f.closing then .closing
  else if f.nextRecord = 257 then .full
  else if f.queue = [] then .ready
  else .busy

/-- What every rule that tests whether the store is CLOSING tests (R128, R144). -/
def FolioStore.closingTest (f : FolioStore) : Bool := f.closing || f.awaitingScan

/-- The queue is full at 8 operations (R129). -/
def FolioStore.queueFull (f : FolioStore) : Bool := decide (8 ≤ f.queue.length)

/-- Whether the store state accepts an ADVANCE, ADVANCE RANGE, WRITE EXTENSION or WRITE SETTINGS (R130, R144). -/
def FolioStore.accepts (f : FolioStore) : Bool := !f.fault && !f.closingTest

/-- The folio number after a close: 65,535 is followed by 1 (R140). -/
def nextFolio (n : Nat) : Nat := if n = 65535 then 1 else n + 1

/-! ## The queue -/

/-- What an operation takes at its start: a WRITE SETTINGS its folio number and values (R136). -/
def StoreOp.started (s : State) : StoreOp → StoreOp
  | .writeSettings ending _ =>
    .writeSettings ending (some (if ending then nextFolio s.store.folio else s.store.folio, s.standing))
  | op => op

/-- A sector ceases to hold records when its ERASE SECTOR starts (R127). -/
def Sector.voided : Sector := { slots := List.replicate 64 Slot.erased, partlyErased := true }

/-- What an operation's start does to the stored content. -/
def FolioStore.onStart (f : FolioStore) : StoreOp → FolioStore
  | .eraseSector k => { f with sectors := f.sectors.set k Sector.voided }
  | _ => f

/-- Start the operation at the head of the queue. -/
def State.startHead (s : State) : State :=
  match s.store.queue with
  | [] => s
  | q :: rest =>
    { s with store := { s.store.onStart q.op with queue := { q with op := q.op.started s } :: rest } }

/-! ## What an ADVANCE RANGE finds -/

/-- Whether an ADVANCE RANGE programs a record it finds (R132). -/
def RangeTarget.applies (t : RangeTarget) (sl : Slot) : Bool :=
  match t, sl.state with
  | .reported, .previewed => true
  | .reported, .committed => true
  | .settled, .reported => true
  | _, _ => false

def RangeTarget.mark (t : RangeTarget) (sl : Slot) : Slot :=
  match t with
  | .reported => { sl with reported := true }
  | .settled => { sl with settled := true }

/-- The record numbers of a range's set that it programs: records of the current folio in the state it advances from
(R132). -/
def FolioStore.rangeRecords (f : FolioStore) (t : RangeTarget) (ns : List Nat) : List Nat :=
  ns.filter fun n => (f.slot n).isRecordOf f.folio && t.applies (f.slot n)

/-- An ADVANCE RANGE that finds nothing to program, which completes OK at once (R132). -/
def FolioStore.idleRange (f : FolioStore) : StoreOp → Bool
  | .advanceRange t ns => (f.rangeRecords t ns).isEmpty
  | _ => false

/-- An accepted operation joins the end of the queue, and starts at once if the queue was empty (R129). An ADVANCE RANGE
that then finds nothing to program has completed OK at once, leaving the queue empty as it was (R132): no number waits
for room beside an empty queue. -/
def State.push (op : StoreOp) (s : State) : State :=
  let s1 := { s with store := { s.store with queue := s.store.queue ++ [{ op := op, retried := false }] } }
  if s.store.queue = [] then if s.store.idleRange op then s else s1.startHead else s1

def State.pushAll (ops : List StoreOp) (s : State) : State := ops.foldl (fun s op => s.push op) s

def StoreOp.isWriteSettings : StoreOp → Bool
  | .writeSettings _ _ => true
  | _ => false

/-- Whether the queue holds a WRITE SETTINGS that has not started (R136). -/
def FolioStore.unstartedSettings (f : FolioStore) : Bool := f.queue.tail.any fun q => q.op.isWriteSettings

/-- The checks a standing change makes on the store: BUSY while CLOSING, FULL for a full queue that holds no
unstarted WRITE SETTINGS (R59 checks 2 and 3). -/
def FolioStore.standingCheck (f : FolioStore) : Option Reason :=
  if f.closingTest then some .busy
  else if f.queueFull && !f.unstartedSettings then some .full
  else none

/-- A request for a WRITE SETTINGS: merged with an unstarted one (R136), refused by a FAULTED store, which leaves the
values in force (R130, R181), and by a full queue (R130), else queued. -/
def State.requestSettings (s : State) : State :=
  if s.store.unstartedSettings then s
  else if s.store.accepts && !s.store.queueFull then s.push (.writeSettings false none)
  else s

/-- Take the oldest number of the marking list, then of the scan list, into the queue while it has room (R109, R129). -/
def State.takeMarking (s : State) : State :=
  match s.buying.marking with
  | [] => s
  | n :: rest =>
    if s.store.accepts && !s.store.queueFull then
      State.push (.advance n .previewed) { s with buying := { s.buying with marking := rest } }
    else s

def State.takeScanList (s : State) : State :=
  match s.store.scanList with
  | [] => s
  | n :: rest =>
    if s.store.accepts && !s.store.queueFull then
      State.push (.advance n .previewed) { s with store := { s.store with scanList := rest } }
    else s

/-! ## What each operation programs -/

/-- Program a field: a written field keeps its value (R124). -/
def program (old : Option Nat) (v : Nat) : Option Nat :=
  match old with
  | some w => some w
  | none => some v

/-- Program a money field: 0 is its fully programmed form and can be written over any value (R124). -/
def programMoney (old : Option Nat) (v : Nat) : Option Nat :=
  match old with
  | some w => if v = 0 then some 0 else some w
  | none => some v

/-- The fields a commit programs, before the mark (R131). -/
def commitSteps (n : Nat) (c : CommitFields) : List (FolioStore → FolioStore) :=
  [FolioStore.onSlot n fun sl => { sl with price := programMoney sl.price c.price },
   FolioStore.onSlot n fun sl => { sl with tax := programMoney sl.tax c.tax },
   FolioStore.onSlot n fun sl => { sl with charge := programMoney sl.charge c.charge },
   FolioStore.onSlot n fun sl => { sl with commitTime := program sl.commitTime c.time }]

/-- An APPEND's steps, the state field last (R131). -/
def appendSteps (r : NewRecord) : List (FolioStore → FolioStore) :=
  [FolioStore.onSlot r.number fun sl => { sl with folio := program sl.folio r.folio },
   FolioStore.onSlot r.number fun sl => { sl with number := program sl.number r.number },
   FolioStore.onSlot r.number fun sl => { sl with programme := program sl.programme r.programme },
   FolioStore.onSlot r.number fun sl => { sl with channel := program sl.channel r.channel },
   FolioStore.onSlot r.number fun sl => { sl with priceClass := program sl.priceClass r.priceClass },
   FolioStore.onSlot r.number fun sl => { sl with minutes := program sl.minutes r.minutes }]
  ++ (match r.commit with
      | some c => commitSteps r.number c
      | none => [])
  ++ [FolioStore.onSlot r.number fun sl =>
        { sl with opened := true, committed := sl.committed || r.commit.isSome }]

/-- Whether the record already holds an ADVANCE's target or a later state on the same path (R131). -/
def AdvanceTarget.reached (t : AdvanceTarget) (sl : Slot) : Bool :=
  match t with
  | .previewed => sl.previewed
  | .committed _ => sl.committed

/-- Whether an ADVANCE's slot holds no record, or its record is on the other path (R131). -/
def AdvanceTarget.blocked (t : AdvanceTarget) (sl : Slot) : Bool :=
  !sl.opened ||
    match t with
    | .previewed => sl.committed
    | .committed _ => sl.previewed

/-- An ADVANCE's steps, the mark last (R131). -/
def advanceSteps (n : Nat) (t : AdvanceTarget) (f : FolioStore) : List (FolioStore → FolioStore) :=
  if t.blocked (f.slot n) || t.reached (f.slot n) then []
  else
    match t with
    | .previewed =>
      [FolioStore.onSlot n fun sl => { sl with charge := programMoney sl.charge 0 },
       FolioStore.onSlot n fun sl => { sl with previewed := true }]
    | .committed c => commitSteps n c ++ [FolioStore.onSlot n fun sl => { sl with committed := true }]

/-- An ADVANCE RANGE's steps, one mark for each record of the set it applies to, in record-number order (R132). -/
def rangeSteps (t : RangeTarget) (ns : List Nat) (f : FolioStore) : List (FolioStore → FolioStore) :=
  (f.rangeRecords t ns).map fun n => FolioStore.onSlot n t.mark

/-- A purchase of the current folio (R126, R127). -/
def FolioStore.isPurchase (f : FolioStore) (n : Nat) : Bool :=
  (f.slot n).isRecordOf f.folio && (f.slot n).committed

/-- A WRITE EXTENSION's step, of a purchase whose field is erased (R133). -/
def extensionSteps (n minutes : Nat) (f : FolioStore) : List (FolioStore → FolioStore) :=
  if f.isPurchase n && (f.slot n).extension.isNone then
    [FolioStore.onSlot n fun sl => { sl with extension := some minutes }]
  else []

def FolioStore.onPage (g : Page → Page) (f : FolioStore) : FolioStore := { f with page := g f.page }

/-- A WRITE SETTINGS' steps: erase the page, then the folio number, the settings and room assignment, and the valid
mark last (R136). DESIGN CHOICE (log entry 45): its retry takes the same steps, the erase of the page among them. -/
def settingsSteps (folio : Nat) (v : Standing) : List (FolioStore → FolioStore) :=
  [FolioStore.onPage fun _ => Page.erased,
   FolioStore.onPage fun p => { p with folio := some folio },
   FolioStore.onPage fun p => { p with f := some v.f },
   FolioStore.onPage fun p => { p with r := some v.r },
   FolioStore.onPage fun p => { p with unlockMinutes := some v.unlockMinutes },
   FolioStore.onPage fun p => { p with billing := some v.billing },
   FolioStore.onPage fun p => { p with taxRate := some v.taxRate },
   FolioStore.onPage fun p => { p with dayCap := some v.dayCap },
   FolioStore.onPage fun p => { p with dayStart := some v.dayStart },
   FolioStore.onPage fun p => { p with defaultCredit := some v.defaultCredit },
   FolioStore.onPage fun p => { p with cutMode := some v.cutMode },
   FolioStore.onPage fun p => { p with room := some v.room },
   FolioStore.onPage fun p => { p with group := some v.group },
   FolioStore.onPage fun p => { p with validMark := true }]

/-- The programming steps of an operation from the content it finds, in order (R131 to R137). -/
def opSteps (f : FolioStore) : StoreOp → List (FolioStore → FolioStore)
  | .append r => appendSteps r
  | .advance n t => advanceSteps n t f
  | .advanceRange t ns => rangeSteps t ns f
  | .writeExtension n m => extensionSteps n m f
  | .writeSettings _ (some (folio, v)) => settingsSteps folio v
  | .writeSettings _ none => []
  | .eraseSector k => [fun f => { f with sectors := f.sectors.set k Sector.erased }]
  | .closeMark => [FolioStore.onPage fun p => { p with closeMark := true }]

/-- The steps that an attempt which fails or is cut off after k of them has made (R124, R135). An erase that did not
complete has not erased its sector, whatever k (R135, R142). -/
def FolioStore.attempted (f : FolioStore) (op : StoreOp) (k : Nat) : List (FolioStore → FolioStore) :=
  match op with
  | .eraseSector _ => []
  | _ => (opSteps f op).take k

/-- Programming what such an attempt had programmed. -/
def FolioStore.programSteps (f : FolioStore) (op : StoreOp) (k : Nat) : FolioStore :=
  (f.attempted op k).foldl (fun f g => g f) f

/-- Programming all of an operation. -/
def FolioStore.programAll (f : FolioStore) (op : StoreOp) : FolioStore :=
  (opSteps f op).foldl (fun f g => g f) f

/-- Whether what the operation finds makes it complete FAIL: an ADVANCE with no record or a record on the other path
(R131), a WRITE EXTENSION of no purchase or of a field already written, unless its own first attempt wrote it (R133,
R134). -/
def FolioStore.contentFails (f : FolioStore) (q : QueuedOp) : Bool :=
  match q.op with
  | .advance n t => t.blocked (f.slot n)
  | .writeExtension n _ => !f.isPurchase n || ((f.slot n).extension.isSome && !q.wrote)
  | _ => false

/-- Whether what the operation finds makes it complete OK with nothing programmed: an ADVANCE whose record holds its
target or a later state on the same path (R131), an ADVANCE RANGE that finds nothing to program (R132). -/
def FolioStore.contentDone (f : FolioStore) : StoreOp → Bool
  | .advance n t => !t.blocked (f.slot n) && t.reached (f.slot n)
  | op => f.idleRange op

/-! ## The close sequence -/

def Sector.whollyErased (sec : Sector) : Bool := !sec.partlyErased && sec.slots.all fun sl => sl == Slot.erased

/-- The close's own operations (R140). -/
def StoreOp.ofClose : StoreOp → Bool
  | .closeMark => true
  | .eraseSector _ => true
  | .writeSettings ending _ => ending
  | _ => false

/-- The sectors from the first that is not wholly erased on (R140). -/
def FolioStore.sectorsFromFirst (f : FolioStore) : List Nat :=
  [0, 1, 2, 3].dropWhile fun k => (f.sector k).whollyErased

/-- The operations a close queues: from the close mark if it is erased, else from the first sector that is not wholly
erased, and the ending write (R140). -/
def FolioStore.closeOps (f : FolioStore) : List StoreOp :=
  if f.page.closeMark then
    (f.sectorsFromFirst.map StoreOp.eraseSector) ++ [.writeSettings true none]
  else
    [.closeMark, .eraseSector 0, .eraseSector 1, .eraseSector 2, .eraseSector 3, .writeSettings true none]

/-- The operations a resumed close queues: each sector not wholly erased, then the ending write (R142). -/
def FolioStore.resumedCloseOps (f : FolioStore) : List StoreOp :=
  (([0, 1, 2, 3].filter fun k => !(f.sector k).whollyErased).map StoreOp.eraseSector) ++ [.writeSettings true none]

/-- CLOSE FOLIO check 4: an APPEND, ADVANCE or WRITE EXTENSION in the queue holds an unforced close back (R139). -/
def StoreOp.holdsClose : StoreOp → Bool
  | .append _ => true
  | .advance _ _ => true
  | .writeExtension _ _ => true
  | _ => false

end Sys2Proof.Machine
end

