-- ==== Sys2Proof/Machine/Purchase.lean ====
section
/-!
DEFINITION. The purchase unit's shared operations: the charge, its answer for a priced programme, the begin and end of
previews, the change of a programme, and what a store completion does to a commit or an extension (R96 to R123).
-/

namespace Sys2Proof.Machine

/-! ## The charge -/

/-- The tax of a price at a rate in basis points, to the nearest cent with halves up (R100 step 1). -/
def taxOf (price rate : Nat) : Nat := (price * rate + 5000) / 10000

/-- The charge of a price under a tax rate, a day cap and day charges (R100 steps 1 to 4); natural subtraction gives
the 0 of a cap below the day charges. -/
def chargeOf (price rate cap day : Nat) : Nat :=
  let gross := price + taxOf price rate
  let capped := if 0 < cap then min gross (cap - day) else gross
  min capped 81918

/-- The charge of a price if bought now. -/
def State.chargeNow (s : State) (price : Nat) : Nat :=
  chargeOf price s.buying.taxRate s.buying.dayCap s.dayCharges

/-- The credit check a charge must pass (R100). -/
def State.creditAllows (s : State) (charge : Nat) : Bool :=
  decide (s.store.folioTotal + s.pendingCharges + charge ≤ s.buying.credit)

/-- An end time held in 0..4,294,967,295 (R117). -/
def heldTime (t : Nat) : Nat := min t 4294967295

/-! ## The answer for a priced programme -/

/-- The purchase unit's answer (R102): go on, a slate, or the begin of a preview and then go on. -/
inductive Answer where
  | goOn
  | slate (kind : Slate)
  | preview
deriving DecidableEq, Repr

def State.rentalOf (s : State) (programme : Nat) : Option Rental :=
  s.buying.rentals.find? fun r => r.programme == programme

def State.previewOf (s : State) (programme : Nat) : Option Preview :=
  s.buying.previews.find? fun p => p.programme == programme

def State.commitOf (s : State) (programme : Nat) : Option Commit :=
  s.buying.commits.find? fun c => c.programme == programme

/-- Whether a preview of the programme can begin (R103). -/
def State.canPreview (s : State) (p : Programme) : Bool :=
  s.buying.billing && decide (0 < (s.priceEntry p.priceClass).previewSeconds) && (s.previewOf p.id).isNone
    && (s.commitOf p.id).isNone && (s.rentalOf p.id).isNone && !s.folioHolds p.id && s.freeMeter.isSome
    && s.notices.hotelTime.isSome && s.store.state == .ready

/-- The answer for a priced programme on the tuned channel, by the first row of R102 that applies. -/
def State.answer (s : State) (channel : Nat) (p : Programme) : Answer :=
  if (s.rentalOf p.id).isSome then .goOn
  else
    match s.buying.refusal.filter fun r => r.programme == p.id && r.channel == channel with
    | some r => .slate r.slate
    | none =>
      if s.buying.commits.any fun c => c.programme == p.id && c.kind == .direct then .slate .wait
      else if (s.previewOf p.id).isSome then .goOn
      else if !s.buying.billing then .slate .unavailable
      else if s.canPreview p then .preview
      else if s.freeMeter.isNone then .slate .unavailable
      else .slate .offer

/-! ## Previews -/

/-- The next record number is given out as it is asked for (R125). -/
def State.takeRecordNumber (s : State) : State :=
  { s with store := { s.store with nextRecord := s.store.nextRecord + 1 } }

/-- A preview begins: the APPEND of an OPENED record, START PREVIEW, and the preview list entry, together (R103). -/
def State.beginPreview (channel : Nat) (p : Programme) (s : State) : State :=
  match s.freeMeter with
  | none => s
  | some m =>
    let n := s.store.nextRecord
    let price := s.priceEntry p.priceClass
    let record : NewRecord :=
      { folio := s.store.folio, number := n, programme := p.id, channel := channel, priceClass := p.priceClass,
        minutes := price.rentalMinutes, commit := none }
    let s1 := (s.takeRecordNumber.push (.append record)).setMeter m (Meter.preview p.id channel n price.previewSeconds)
    { s1 with buying :=
      { s1.buying with previews :=
        s1.buying.previews ++ [{ programme := p.id, channel := channel, record := n, meter := m, state := .running }] } }

/-- The ADVANCE to PREVIEWED of an ended preview's record: queued, or on the marking list when the queue is full, or
refused by a store that does not accept it (R109). -/
def State.markPreviewed (n : Nat) (s : State) : State :=
  if s.store.accepts then
    if s.store.queueFull then { s with buying := { s.buying with marking := s.buying.marking ++ [n] } }
    else s.push (.advance n .previewed)
  else s

/-- A preview entry leaves the preview list. -/
def State.dropPreview (programme : Nat) (s : State) : State :=
  { s with buying := { s.buying with previews := s.buying.previews.filter fun p => p.programme != programme } }

/-- A running preview ends without purchase, its meter released (R107, R108). -/
def State.endPreview (p : Preview) (s : State) : State :=
  ((s.releaseMeter p.meter p.programme).dropPreview p.programme).markPreviewed p.record

/-- The refusal is removed (R111). -/
def State.clearRefusal (s : State) : State := { s with buying := { s.buying with refusal := none } }

/-- A change of programme on a channel: each RUNNING preview bound to it ends (R108) and a refusal on it is removed
(R111). -/
def State.programmeChanged (channel : Nat) (s : State) : State :=
  let running := s.buying.previews.filter fun p => p.channel == channel && p.state == .running
  let s1 := running.foldl (fun s p => s.endPreview p) s
  match s1.buying.refusal with
  | some r => if r.channel = channel then s1.clearRefusal else s1
  | none => s1

/-! ## Store completions -/

def State.commitOfRecord (s : State) (n : Nat) : Option Commit := s.buying.commits.find? fun c => c.record == n

def State.dropCommit (n : Nat) (s : State) : State :=
  { s with buying := { s.buying with commits := s.buying.commits.filter fun c => c.record != n } }

/-- The entry of a FROM PREVIEW commit leaves the preview list (R114, R115). -/
def State.dropBought (c : Commit) (s : State) : State :=
  match c.kind with
  | .fromPreview => s.dropPreview c.programme
  | .direct => s

/-- A commit's store operation completes OK: its rental begins and PURCHASE is raised; with no entry nothing is done
(R114). -/
def State.commitOk (n : Nat) (s : State) : State :=
  match s.commitOfRecord n with
  | none => s
  | some c =>
    let seconds := ((s.store.slot n).minutes.getD 0) * 60
    let s1 := ((s.dropCommit n).dropBought c).startRental c.meter c.programme n seconds
    State.raise .purchase
      { s1 with buying :=
        { s1.buying with rentals :=
          s1.buying.rentals ++
            [{ programme := c.programme, record := n, meter := c.meter, endTime := heldTime (c.time + seconds),
               extension := .none }] } }

/-- A commit's final FAIL drops the purchase and releases its meter (R115). -/
def State.commitFails (n : Nat) (s : State) : State :=
  match s.commitOfRecord n with
  | none => s
  | some c => ((s.dropCommit n).releaseMeter c.meter c.programme).dropBought c

/-- Change the rental entry of a record number. -/
def State.onRental (n : Nat) (g : Rental → Rental) (s : State) : State :=
  { s with buying :=
    { s.buying with rentals := s.buying.rentals.map fun r => if r.record = n then g r else r } }

def State.rentalOfRecord (s : State) (n : Nat) : Option Rental := s.buying.rentals.find? fun r => r.record == n

/-- A WRITE EXTENSION completes OK: a REQUESTED entry becomes WRITTEN and SET BUFFERED PERIOD is sent (R121). -/
def State.extensionOk (n minutes : Nat) (s : State) : State :=
  match s.rentalOfRecord n with
  | none => s
  | some r =>
    if r.extension = .requested then
      (s.onRental n fun r => { r with extension := .written }).setBuffered r.meter n (minutes * 60)
    else s

/-- A WRITE EXTENSION's final FAIL returns a REQUESTED extension to NONE (R121). -/
def State.extensionFails (n : Nat) (s : State) : State :=
  s.onRental n fun r => if r.extension = .requested then { r with extension := .none } else r

/-- The result OK handed to the block that asked for an operation (R129). -/
def State.requesterOk (op : StoreOp) (s : State) : State :=
  match op with
  | .append r => if r.commit.isSome then s.commitOk r.number else s
  | .advance n (.committed _) => s.commitOk n
  | .writeExtension n m => s.extensionOk n m
  | _ => s

/-- The result FAIL told to the block that asked for an operation (R134). -/
def State.requesterFail (op : StoreOp) (s : State) : State :=
  match op with
  | .append r => if r.commit.isSome then s.commitFails r.number else s
  | .advance n (.committed _) => s.commitFails n
  | .writeExtension n _ => s.extensionFails n
  | _ => s

end Sys2Proof.Machine
end

