-- ==== Sys2Proof/Machine/Composer.lean ====
section
/-!
DEFINITION. The output composer's shared operations: the lock verdict it asks for (R63), the view decision and the
re-decision (R162, R163, R166, R169), the cut and the discarding under a slate (R167, R168), tuning (R161), the
arbiter (R165), slates and fill fields (R171 to R173).
-/

namespace Sys2Proof.Machine

/-! ## The lock verdict -/

/-- The verdict of the rating lock (R63). -/
inductive Verdict where
  | allowed | pin | locked
deriving DecidableEq, Repr

/-- The class of a channel: the map's entry for the current record's rating code, else the default class (R58). -/
def State.classOf (s : State) (e : ChannelEntry) : Nat :=
  match s.current e.number with
  | some p => s.lock.map.getD p.rating 7
  | none => e.defaultClass

/-- The unlock window is open while meter 0 is in use UNLOCK (section 4.6). -/
def State.unlockOpen (s : State) : Bool := (s.meter 0).use == .unlock

/-- The lockout runs while meter 0 is in use LOCKOUT (section 4.6). -/
def State.lockoutRunning (s : State) : Bool := (s.meter 0).use == .lockout

/-- The lock verdict for a class, by the first row of R63 that applies. -/
def State.verdict (s : State) (c : Nat) : Verdict :=
  if s.lock.g < c then .locked
  else if c < s.lock.r then .allowed
  else if s.lock.pin = none then .locked
  else if s.lockoutRunning then .locked
  else if s.unlockOpen then .allowed
  else .pin

/-! ## The view decision -/

/-- Steps 5 to 7 of R162. -/
def Lane.view (l : Lane) : View :=
  if l.watch = .lost then .slate .noSignal
  else if l.keyStatus = .keyless then .slate .noKey
  else .show

/-- Step 4 of R162: the purchase unit's answer for a priced programme, go on for a free one (R97, R102). -/
def State.saleAnswer (s : State) (e : ChannelEntry) : Answer :=
  match s.current e.number with
  | none => .goOn
  | some p => if s.priceOf p = 0 then .goOn else s.answer e.number p

/-- The view decision for a channel entry, and whether the asking begins a preview (R162, R102). -/
def State.viewDecision (s : State) (e : ChannelEntry) : View × Bool :=
  let l := s.lane e.picture
  if l.response = .hold ∨ l.response = .block ∨ s.subscribed e.package = false then (.slate .notSubscribed, false)
  else
    match s.verdict (s.classOf e) with
    | .pin => (.slate .pin, false)
    | .locked => (.slate .locked, false)
    | .allowed =>
      if e.pay ∧ s.current e.number = none then (.slate .unavailable, false)
      else
        match s.saleAnswer e with
        | .slate k => (.slate k, false)
        | .goOn => (l.view, false)
        | .preview => (l.view, true)

/-- How a new decision acts on the output state, from the decision and output state held (R166, R167, R169). -/
def Composer.decided (c : Composer) (now : Word32) (v : View) : Composer :=
  if c.decision = some v then c
  else
    { c with
      decision := some v
      output :=
        match v, c.output with
        | .show, .cutting _ => .showing
        | .show, .slate _ _ _ => .waitingStart
        | .show, o => o
        | .slate _, .cutting start => .cutting start
        | .slate k, .showing => if c.cutMode = .boundary then .cutting now else .slate k none 0
        | .slate k, _ => .slate k none 0 }

/-- An UNLOCK collection ends when its channel is no longer tuned or the decision is no longer the PIN slate (R69). -/
def State.endStaleUnlock (s : State) : State :=
  match s.lock.entry with
  | .unlock channel _ _ =>
    if s.composer.tuned = some channel ∧ s.composer.decision = some (.slate .pin) then s
    else { s with lock := { s.lock with entry := .idle } }
  | _ => s

/-- The preview that the asking begins, if it begins one (R103). -/
def State.askedPreview (s : State) (e : ChannelEntry) : State :=
  match (s.viewDecision e).2, s.current e.number with
  | true, some p => s.beginPreview e.number p
  | _, _ => s

/-- The view decision is taken afresh for the tuned channel (R163). A decision that stays as it was changes nothing,
so the re-decision may follow any command (log entry 8). -/
def State.redecide (s : State) : State :=
  match s.tunedEntry with
  | none => s
  | some e =>
    let v := (s.viewDecision e).1
    let s1 := s.askedPreview e
    State.endStaleUnlock { s1 with composer := s1.composer.decided s1.second v }

/-! ## The arbiter, the cut and the discarding under a slate -/

/-- The cells a lane's area can offer one after another: the clear cells ahead of the first held one, in PASS alone
(R23, R32). -/
def Lane.offered (l : Lane) : List AreaCell :=
  if l.response = .pass then l.area.takeWhile fun c => !c.held else []

/-- The area once every offered cell is taken. -/
def Lane.drained (l : Lane) : Lane :=
  if l.response = .pass then { l with area := l.area.dropWhile fun c => !c.held } else l

/-- The cell the arbiter takes next, with its lane: of the cells offered, the one accepted first (R165). -/
def State.arbiter (s : State) (e : ChannelEntry) : Option (Nat × AreaCell) :=
  let sound := e.sound.bind fun i => ((s.lane i).offered.head?).map fun c => (i, c)
  match (s.lane e.picture).offered.head? with
  | none => sound
  | some p =>
    match sound with
    | none => some (e.picture, p)
    | some (i, c) => if c.order < p.order then some (i, c) else some (e.picture, p)

/-- The cut ends where the cell the arbiter would take next is a picture cell with its start mark set (R167). -/
def State.cutReached (s : State) (e : ChannelEntry) : Bool :=
  match s.composer.output, s.arbiter e with
  | .cutting _, some (i, c) => i == e.picture && c.cell.start
  | _, _ => false

/-- The slate the decision holds starts (R166, R167). -/
def State.beginSlate (s : State) : State :=
  match s.composer.decision with
  | some (.slate k) => { s with composer := { s.composer with output := .slate k none 0 } }
  | _ => s

/-- Every cell the entry's lanes offer is taken and discarded (R168). -/
def State.drainLanes (e : ChannelEntry) (s : State) : State :=
  e.lanes.foldl (fun s i => s.setLane i (s.lane i).drained) s

/-- What follows at once from the areas and the output state: a cut that has reached its start mark ends, and under
a slate offered cells are discarded as soon as they are offered (R167, R168). -/
def State.followOutput (s : State) : State :=
  match s.tunedEntry with
  | none => s
  | some e =>
    let s1 := if s.cutReached e then s.beginSlate else s
    match s1.composer.output with
    | .slate _ _ _ => s1.drainLanes e
    | _ => s1

/-- What ends every command that may have changed an input of the view decision or an area. -/
def State.finish (s : State) : State := s.redecide.followOutput

/-! ## Tuning -/

/-- A lane ceases to be tuned: its area is flushed and a key wait ends KEYLESS (R24, R37). -/
def Lane.untuned (l : Lane) : Lane :=
  { l with
    area := []
    keyStatus := match l.keyStatus with
      | .keywait _ _ _ => .keyless
      | k => k }

/-- The lanes of `old` that `new` does not name cease to be tuned (R160, R161). -/
def State.untuneLanes (old : ChannelEntry) (new : Option ChannelEntry) (s : State) : State :=
  (old.lanes.filter fun i => !(new.any fun e => e.names i)).foldl (fun s i => s.setLane i (s.lane i).untuned) s

/-- The output state of a channel whose decision is first taken (R161): a slate starts at once whatever the cut mode. -/
def Composer.tunedTo (c : Composer) (v : View) : Composer :=
  { c with
    decision := some v
    output := match v with
      | .show => .waitingStart
      | .slate k => .slate k none 0 }

/-- A tune to a channel of the table (R161, R157): the refusal is removed, old lanes are untuned, the decision is taken
for the new channel and an UNLOCK collection ends. -/
def State.tune (n : Nat) (s : State) : State :=
  match s.entry n with
  | none => s
  | some e =>
    let s1 := match s.tunedEntry with
      | some old => s.untuneLanes old (some e)
      | none => s
    let s2 := { s1.clearRefusal with composer := { s1.composer with tuned := some n } }
    let v := (s2.viewDecision e).1
    let s3 := s2.askedPreview e
    State.followOutput (State.endStaleUnlock { s3 with composer := s3.composer.tunedTo v })

/-- No channel is tuned any more: the lanes of the old entry are untuned, the decision is absent and the output NONE
(R160); an UNLOCK collection and the refusal end (R69, R111). -/
def State.untune (old : ChannelEntry) (s : State) : State :=
  let s1 := (s.untuneLanes old none).clearRefusal
  State.endStaleUnlock
    { s1 with composer := { s1.composer with tuned := none, decision := none, output := .none } }

/-! ## Slates and fill fields -/

/-- The decimal digits of a number without leading zeros, at least one; `fuel` bounds their count. -/
def decimalAux : Nat → Nat → List Byte
  | 0, n => [BitVec.ofNat 8 (48 + n % 10)]
  | fuel + 1, n =>
    if n < 10 then [BitVec.ofNat 8 (48 + n)] else decimalAux fuel (n / 10) ++ [BitVec.ofNat 8 (48 + n % 10)]

def decimal (n : Nat) : List Byte := decimalAux 12 n

/-- Money as d.cc (R172). -/
def moneyText (cents : Nat) : List Byte :=
  decimal (cents / 100) ++ [0x2E, BitVec.ofNat 8 (48 + cents % 100 / 10), BitVec.ofNat 8 (48 + cents % 10)]

/-- Minutes as hours to one decimal (R173). -/
def hoursText (minutes : Nat) : List Byte :=
  let tenths := (minutes * 10 + 30) / 60
  decimal (tenths / 10) ++ [0x2E, BitVec.ofNat 8 (48 + tenths % 10)]

/-- A text right-aligned in 8 characters, padded on the left with spaces (R172). -/
def rightAligned (text : List Byte) : List Byte := List.replicate (8 - text.length) 0x20 ++ text

/-- The digits PIN entry has collected (R68). -/
def PinEntry.digits : PinEntry → List Nat
  | .unlock _ ds _ => ds
  | .raise _ ds _ => ds
  | _ => []

/-- The tuned channel's current programme, if priced (R97). -/
def State.pricedProgramme (s : State) : Option Programme := s.tunedCurrent.filter fun p => s.priceOf p != 0

/-- The text of a fill field; an absent value is written as spaces (R173). -/
def State.fillText (s : State) : FillKind → List Byte
  | .price =>
    match s.pricedProgramme with
    | some p => moneyText (s.chargeNow (s.priceOf p))
    | none => []
  | .rentalHours =>
    match s.pricedProgramme with
    | some p => hoursText (s.priceEntry p.priceClass).rentalMinutes
    | none => []
  | .previewLeft =>
    match s.tunedCurrent.bind fun p => s.previewLeft p.id with
    | some n => decimal n
    | none => []
  | .creditLeft => moneyText (s.buying.credit - (s.store.folioTotal + s.pendingCharges))
  | .pinMask => List.replicate s.lock.entry.digits.length 0x2A
  | .channel =>
    match s.composer.tuned with
    | some n => decimal n
    | none => []

/-- Write bytes over a payload from an offset (R172). -/
def overlay (payload : List Byte) (offset : Nat) (text : List Byte) : List Byte :=
  payload.take offset ++ text ++ payload.drop (offset + text.length)

/-- The slate cell of a READY position as emitted (R171, R172). -/
def State.slateCell (s : State) (h : SlateHeader) (payload : List Byte) (seq : Nat) : Cell :=
  { stream := h.stream, seq := seq, mark := .clear, start := h.start, spareBits := 0, length := h.length, spare5 := 0,
    spare6 := 0,
    payload := h.fills.foldl (fun p f => overlay p f.offset (rightAligned (s.fillText f.kind))) payload }

def State.slatePosition (s : State) (k : Slate) (p : Nat) : SlatePosition :=
  s.composer.slates.getD (4 * k.index + p) .empty

def SlatePosition.isReady : SlatePosition → Bool
  | .ready _ _ => true
  | _ => false

/-- The position to emit next: the lowest READY one above the position last emitted, else the lowest READY (R171). -/
def State.nextPosition (s : State) (k : Slate) (last : Option Nat) : Option Nat :=
  let ready := [0, 1, 2, 3].filter fun p => (s.slatePosition k p).isReady
  match ready.find? fun p => match last with
      | some l => decide (l < p)
      | none => true with
  | some p => some p
  | none => ready.head?

/-- The slate slot: the next READY position is emitted with its sequence count, or a null cell (R164, R171). -/
def State.slateSlot (k : Slate) (last : Option Nat) (seq : Nat) (s : State) : State :=
  match s.nextPosition k last with
  | none => { s with composer := { s.composer with port := Cell.null } }
  | some p =>
    match s.slatePosition k p with
    | .ready h payload =>
      { s with composer :=
        { s.composer with port := s.slateCell h payload seq, output := .slate k (some p) ((seq + 1) % 16) } }
    | _ => { s with composer := { s.composer with port := Cell.null } }

/-! ## The output slot -/

/-- Take the oldest cell of a lane's area. -/
def State.takeOldest (i : Nat) (s : State) : State :=
  s.setLane i { s.lane i with area := (s.lane i).area.drop 1 }

/-- The slot in SHOWING and CUTTING: the arbiter's cell, or a null cell (R164, R165). -/
def State.programmeSlot (e : ChannelEntry) (s : State) : State :=
  match s.arbiter e with
  | none => { s with composer := { s.composer with port := Cell.null } }
  | some (i, c) => { s.takeOldest i with composer := { s.composer with port := c.cell } }

/-- The offered cells accepted before a place in acceptance order are taken and discarded. -/
def Lane.dropBefore (order : Nat) (l : Lane) : Lane :=
  if l.response = .pass then { l with area := l.area.dropWhile fun c => !c.held && decide (c.order < order) } else l

/-- The cells up to and including the first with its start mark set are taken. -/
def Lane.dropThroughStart (l : Lane) : Lane :=
  { l with area := (l.area.dropWhile fun c => !c.cell.start).drop 1 }

/-- The slot in WAITING_START (R169): offered cells are taken in acceptance order and discarded up to the first
picture cell with its start mark set, which is sent and makes the state SHOWING; with none, a null cell. -/
def State.waitingSlot (e : ChannelEntry) (s : State) : State :=
  match (s.lane e.picture).offered.find? fun c => c.cell.start with
  | none => { s.drainLanes e with composer := { s.composer with port := Cell.null } }
  | some c =>
    let s1 := match e.sound with
      | some i => s.setLane i ((s.lane i).dropBefore c.order)
      | none => s
    let s2 := s1.setLane e.picture (s1.lane e.picture).dropThroughStart
    { s2 with composer := { s2.composer with port := c.cell, output := .showing } }

/-- An output slot (R164). -/
def State.outputSlot (s : State) : State :=
  match s.composer.output, s.tunedEntry with
  | .slate k last seq, _ => s.slateSlot k last seq
  | .showing, some e => (s.programmeSlot e).followOutput
  | .cutting _, some e => (s.programmeSlot e).followOutput
  | .waitingStart, some e => s.waitingSlot e
  | _, _ => { s with composer := { s.composer with port := Cell.null } }

end Sys2Proof.Machine
end

