-- ==== Sys2Proof/Machine/Lanes.lean ====
section
/-!
DEFINITION. The lane table and the descrambler: the keystream (R30), the handling of an accepted cell (R14 to R18, R22,
R29 to R36), response changes (R9 to R13), the checks of LOAD LANE (R7), and the ends of a key wait (R33, R34, R37).
-/

namespace Sys2Proof.Machine

/-! ## The keystream -/

/-- The start state x0 (R30 step 1). -/
def keystreamStart (key : Word32) (stream seq : Nat) : Nat :=
  (key.toNat % 65536 + 3 * (key.toNat / 65536) + 257 * stream + 4099 * seq) % 65536

/-- The next state (R30 step 2). -/
def keystreamNext (x : Nat) : Nat := (40693 * x + 2713) % 65536

/-- Recover the first n bytes of a payload from keystream state x; the rest is left as received (R29, R30 step 3). -/
def recoverBytes : Nat → Nat → List Byte → List Byte
  | 0, _, bs => bs
  | _ + 1, _, [] => []
  | n + 1, x, b :: bs =>
    let x' := keystreamNext x
    (b - BitVec.ofNat 8 (x' / 256)) :: recoverBytes n x' bs

/-- The phase a key mark names. -/
def KeyMark.phase : KeyMark → Option Phase
  | .clear => none
  | .phaseA => some .a
  | .phaseB => some .b

/-- A cell recovered with a key value: its key mark becomes CLEAR (R29). -/
def Cell.descrambled (c : Cell) (key : Word32) : Cell :=
  { c with mark := .clear, payload := recoverBytes c.length (keystreamStart key c.stream c.seq) c.payload }

/-- What the descrambler makes of a cell with the keys of a slot: a clear cell, or `none` where the named phase is
absent (R29, R31). -/
def Cell.opened (c : Cell) (keys : KeySlot) : Option Cell :=
  match c.mark.phase with
  | none => some c
  | some p => (keys.phase p).map c.descrambled

/-! ## Accepting a cell -/

/-- Steps 1 to 3 of R15: the counter, the sequence check (R17) and the watch (R18). -/
def Lane.counted (l : Lane) (c : Cell) : Lane :=
  { l with
    accepted := countUp l.accepted
    discontinuities :=
      match l.expected with
      | some q => if q = c.seq then l.discontinuities else countUp l.discontinuities
      | none => l.discontinuities
    expected := some ((c.seq + 1) % 16)
    watch := if l.response = .pass then .armed else l.watch
    silence := if l.response = .pass then 0 else l.silence }

/-- A cell placed at the newest end of the area; a full area first drops its oldest cell (R16, R22, R36). -/
def Lane.place (l : Lane) (c : AreaCell) : Lane :=
  match l.config with
  | none => l
  | some cfg =>
    if cfg.blockCount ≤ l.area.length then
      { l with area := l.area.drop 1 ++ [c], overflowDrops := countUp l.overflowDrops }
    else { l with area := l.area ++ [c] }

/-- Place a cell in a tuned lane's area; an untuned lane discards it (R16). -/
def Lane.placeIf (tuned : Bool) (l : Lane) (c : AreaCell) : Lane := if tuned then l.place c else l

/-- A flushed area (R24). -/
def Lane.flushed (l : Lane) : Lane := { l with area := [] }

/-- The lane's watch UNARMED with silence 0 (R18). -/
def Lane.unwatched (l : Lane) : Lane := { l with watch := .unarmed, silence := 0 }

/-- The lane enters BLOCK (R12): flushed, unwatched, KEYED (R37 and the summary table of section 2.3, log entry 9). -/
def Lane.toBlock (l : Lane) : Lane := { l.flushed.unwatched with response := .block, keyStatus := .keyed }

/-- A key miss counted (R25). -/
def Lane.missed (l : Lane) : Lane := { l with keyMisses := countUp l.keyMisses }

/-- Step 6 and 7 of R15: the descrambler's handling by key status (R31, R32, R35), with the notice it raises. -/
def Lane.descramble (l : Lane) (keys : KeySlot) (tuned : Bool) (now : Word32) (order : Nat) (c : Cell) :
    Lane × Option NoticeFlag :=
  match l.keyStatus, c.opened keys with
  | .keywait _ _ _, o =>
    if tuned then (l.place { cell := c, held := true, order := order }, none)
    else
      match o with
      | some _ => ({ l with keyStatus := .keyed }, none)
      | none => (l.missed, none)
  | .keyed, some d => (l.placeIf tuned { cell := d, held := false, order := order }, none)
  | .keyed, none =>
    match tuned, c.mark.phase with
    | true, some p =>
      (({ l with keyStatus := .keywait now (l.keySlot.getD 0) p } : Lane).place
        { cell := c, held := true, order := order }, none)
    | _, _ => ({ l.missed with keyStatus := .keyless }, some .keyMiss)
  | .keyless, some d =>
    (({ l with keyStatus := .keyed } : Lane).placeIf tuned { cell := d, held := false, order := order }, none)
  | .keyless, none => (l.missed, none)

/-- An accepted cell handled by its lane, with the notice it raises (R15). -/
def Lane.accept (l : Lane) (keys : KeySlot) (tuned : Bool) (now : Word32) (order : Nat) (c : Cell) :
    Lane × Option NoticeFlag :=
  let l1 := l.counted c
  if l1.response = .block then (l1, none)
  else if l1.keySlot = none ∧ c.mark ≠ .clear then (l1.toBlock, some .laneFault)
  else l1.descramble keys tuned now order c

/-- The lane a programme cell's stream number matches: a lane in HOLD, PASS or BLOCK (R4). -/
def State.laneOfStream (s : State) (stream : Nat) : Option Nat :=
  s.lanes.findIdx? fun l => l.configured && (l.config.map (·.stream)) == some stream

/-- A cell is accepted on a lane (R15). -/
def State.acceptCell (i : Nat) (c : Cell) (s : State) : State :=
  let l := s.lane i
  let keys := s.keySlot (l.keySlot.getD 16)
  let r := l.accept keys (s.tunedLane i) s.second s.intake.accepted c
  let s1 := { s.setLane i r.1 with intake := { s.intake with accepted := s.intake.accepted + 1 } }
  State.finish (match r.2 with
    | some f => s1.raise f
    | none => s1)

/-! ## The ends of a key wait and of a stream -/

/-- A held cell resolved at the arrival of the waited phase (R33). -/
def AreaCell.resolve (keys : KeySlot) (c : AreaCell) : Option AreaCell :=
  if c.held then (c.cell.opened keys).map fun d => { c with cell := d, held := false } else some c

/-- A key wait ends by the arrival of its key: held cells are resolved in order, those still without a key are dropped
and counted, and the lane is KEYED (R33). -/
def Lane.resolveWait (keys : KeySlot) (l : Lane) : Lane :=
  { l with
    keyStatus := .keyed
    area := l.area.filterMap (AreaCell.resolve keys)
    keyMisses := countUpBy l.keyMisses (l.area.filter fun c => (c.resolve keys).isNone).length }

/-- Whether a lane waits for this slot and phase. -/
def Lane.waitsFor (slot : Nat) (p : Phase) (l : Lane) : Bool :=
  match l.keyStatus with
  | .keywait _ k q => k == slot && q == p
  | _ => false

/-- A key wait expires: held cells are dropped and counted, clear ones stay, the lane is KEYLESS (R34). -/
def Lane.expireWait (l : Lane) : Lane :=
  { l with
    keyStatus := .keyless
    area := l.area.filter fun c => !c.held
    keyMisses := countUpBy l.keyMisses (l.area.filter (·.held)).length }

/-- The watch becomes LOST: flushed, the expected sequence absent, a key wait ended KEYLESS (R20, R37). -/
def Lane.toLost (l : Lane) : Lane := { l.untuned with watch := .lost, expected := none }

/-- The silence count of an ARMED lane in PASS after a local second (R18, R19). -/
def Lane.ticked (l : Lane) : Lane :=
  if l.response = .pass ∧ l.watch = .armed then { l with silence := l.silence + 1 } else l

/-- Whether the silence has reached the watch interval (R19). DESIGN CHOICE (log entry 39): with watch code 0 the count of
1 is the interval, so the first local second after a cell makes the lane LOST. -/
def Lane.lossDue (l : Lane) : Bool :=
  l.response == .pass && l.watch == .armed && decide (l.interval ≤ l.silence)

/-- Whether the key wait has reached its start second plus 3 (R34). -/
def Lane.waitDue (now : Word32) (l : Lane) : Bool :=
  match l.keyStatus with
  | .keywait start _ _ => decide (3 ≤ elapsed start now)
  | _ => false

/-! ## Response changes -/

/-- From PASS or BLOCK to HOLD (R10). -/
def Lane.toHold (l : Lane) : Lane := { l.unwatched with response := .hold }

/-- From IDLE to HOLD (R10). -/
def Lane.wake (l : Lane) : Lane :=
  { l.flushed.unwatched with response := .hold, expected := none, keyStatus := .keyed }

/-- From HOLD to PASS (R11). -/
def Lane.toPass (l : Lane) : Lane := { l.unwatched with response := .pass }

/-- To IDLE (R13): the configuration and the counters are kept. -/
def Lane.toIdle (l : Lane) : Lane :=
  { l.flushed.unwatched with response := .idle, expected := none, keyStatus := .keyed }

/-- Whether two areas share a pool block (R7 check 5). -/
def LaneConfig.overlaps (a b : LaneConfig) : Bool :=
  decide (a.firstBlock < b.firstBlock + b.blockCount) && decide (b.firstBlock < a.firstBlock + a.blockCount)

/-- Whether another configured lane has a block of the area or the stream number (R7 checks 5 and 6). -/
def State.laneConflict (s : State) (i : Nat) (c : LaneConfig) : Bool :=
  s.lanes.zipIdx.any fun p =>
    p.2 != i && p.1.configured &&
      match p.1.config with
      | some d => c.overlaps d || c.stream == d.stream
      | none => false

/-- Whether a channel entry names the lane in the other kind's place (R7 check 7). -/
def State.kindConflict (s : State) (i : Nat) (k : LaneKind) : Bool :=
  s.composer.channels.any fun e => match e with
    | none => false
    | some c =>
      match k with
      | .sound => c.picture == i
      | .picture => c.sound == some i

/-- The configuration LOAD LANE carries, `none` if a field is out of range (R7 check 3). -/
def laneConfigOf (stream kind package : Nat) (keySlot : Option Nat) (firstBlock blockCount watchCode : Nat) :
    Option LaneConfig :=
  match laneKindOf kind with
  | none => none
  | some k =>
    if stream ≤ 4079 ∧ package ≤ 31 ∧ keySlot.all (fun x => decide (x ≤ 15)) ∧ firstBlock ≤ 95 ∧ 1 ≤ blockCount
        ∧ blockCount ≤ 16 ∧ watchCode ≤ 7 then
      some { stream := stream, kind := k, package := package, keySlot := keySlot, firstBlock := firstBlock,
             blockCount := blockCount, watchCode := watchCode }
    else none

/-- The checks of LOAD LANE in their order (R7). -/
def State.loadLaneCheck (s : State) (i : Nat) (cfg : Option LaneConfig) : Option Reason :=
  if 24 ≤ i then some .range
  else if (s.lane i).response = .pass ∨ (s.lane i).response = .block then some .busy
  else
    match cfg with
    | none => some .range
    | some c =>
      if 96 < c.firstBlock + c.blockCount then some .conflict
      else if s.laneConflict i c then some .conflict
      else if s.kindConflict i c.kind then some .conflict
      else none

/-- A lane loaded (R8): flushed, its run state and counters cleared, its response kept. -/
def Lane.loaded (l : Lane) (c : LaneConfig) : Lane :=
  { Lane.initial with config := some c, response := l.response }

/-- The effect of a LOAD LANE that is taken (R8). -/
def State.loadLane (i : Nat) (cfg : Option LaneConfig) (s : State) : State :=
  match cfg with
  | none => s
  | some c => State.finish (s.setLane i ((s.lane i).loaded c))

/-- The checks of SET LANE RESPONSE (R9, R10, R13). -/
def State.setResponseCheck (s : State) (i : Nat) (r : Option Response) : Option Reason :=
  if 24 ≤ i then some .range
  else
    match r, (s.lane i).response with
    | none, _ => some .range
    | some .idle, .idle => none
    | some .idle, _ => if s.laneNamed i then some .conflict else none
    | some .hold, .idle =>
      match (s.lane i).config with
      | none => some .state
      | some c => if s.laneConflict i c then some .conflict else none
    | some .pass, .idle => some .state
    | some .block, .idle => some .state
    | some .pass, .block => some .state
    | _, _ => none

/-- The lane a SET LANE RESPONSE that is taken leaves (R9's table). -/
def Lane.respond (l : Lane) (r : Response) : Lane :=
  if l.response = r then l
  else
    match r, l.response with
    | .idle, _ => l.toIdle
    | .hold, .idle => l.wake
    | .hold, _ => l.toHold
    | .pass, _ => l.toPass
    | .block, _ => l.toBlock

/-- The effect of a SET LANE RESPONSE that is taken (R9). -/
def State.setResponse (i : Nat) (r : Option Response) (s : State) : State :=
  match r with
  | none => s
  | some r => State.finish (s.setLane i ((s.lane i).respond r))

/-! ## Key commands -/

/-- The check of LOAD KEY and CLEAR KEY (R27, R28). -/
def keyCheck (slot : Nat) (phase : Option Phase) : Option Reason :=
  if 15 < slot ∨ phase = none then some .range else none

def State.setKey (slot : Nat) (p : Phase) (v : Option Word32) (s : State) : State :=
  { s with keys := s.keys.set slot ((s.keySlot slot).withPhase v p) }

/-- The effect of a LOAD KEY: the phase takes the value, and if it was absent every key wait on it ends (R27, R33). -/
def State.loadKey (slot : Nat) (phase : Option Phase) (key : Word32) (s : State) : State :=
  match phase with
  | none => s
  | some p =>
    let s1 := s.setKey slot p (some key)
    if (s.keyOf slot p).isSome then s1
    else
      State.finish
        { s1 with lanes := s1.lanes.map fun l => if l.waitsFor slot p then l.resolveWait (s1.keySlot slot) else l }

/-- The effect of a CLEAR KEY (R28). -/
def State.clearKey (slot : Nat) (phase : Option Phase) (s : State) : State :=
  match phase with
  | none => s
  | some p => s.setKey slot p none

end Sys2Proof.Machine
end

