-- ==== Sys2Proof/Machine/Notices.lean ====
section
/-!
DEFINITION. Hotel time, time beacons, programme notices, swap and end (R42 to R56), and rental restoration, which the
first beacon hands on (R45, R143).
-/

namespace Sys2Proof.Machine

/-! ## Rental restoration -/

/-- The minutes a rental runs with its extension (R143). -/
def Slot.totalMinutes (sl : Slot) : Nat := sl.minutes.getD 0 + sl.extension.getD 0

/-- The end time of a record's rental (R143, R117). -/
def Slot.rentalEnd (sl : Slot) : Nat := heldTime (sl.commitTime.getD 0 + sl.totalMinutes * 60)

/-- The records that qualify: purchases of the current folio that end after hotel time (R143 step 1). -/
def FolioStore.restorable (f : FolioStore) (hotel : Nat) : List (Slot × Nat) :=
  f.records.filter fun p => p.1.committed && decide (hotel < p.1.rentalEnd)

/-- Whether another qualifying record of the same programme stays in this one's place (R143 step 2). -/
def replacedBy (x y : Slot × Nat) : Bool :=
  x.1.programme == y.1.programme &&
    (decide (x.1.rentalEnd < y.1.rentalEnd) || (x.1.rentalEnd == y.1.rentalEnd && decide (x.2 < y.2)))

/-- Whether y ends before x, the lower record number first where end times are equal (R143 step 3). -/
def endsBefore (y x : Slot × Nat) : Bool :=
  decide (y.1.rentalEnd < x.1.rentalEnd) || (y.1.rentalEnd == x.1.rentalEnd && decide (y.2 < x.2))

/-- One record to each programme id (R143 step 2). -/
def onePerProgramme (xs : List (Slot × Nat)) : List (Slot × Nat) := xs.filter fun x => !xs.any (replacedBy x)

/-- The seven with the earliest end times, in record-number order (R143 step 3). -/
def earliestSeven (xs : List (Slot × Nat)) : List (Slot × Nat) :=
  xs.filter fun x => decide ((xs.filter fun y => endsBefore y x).length < 7)

/-- RESTORE RENTAL of one kept record and its rental table entry (R84, R117, R143 step 4). -/
def State.restoreRental (hotel : Nat) (s : State) (x : Slot × Nat) : State :=
  match s.freeMeter, x.1.programme with
  | some m, some programme =>
    let s1 := s.setMeter m
      (Meter.rental programme x.2 (min (x.1.rentalEnd - hotel) (x.1.totalMinutes * 60)))
    { s1 with buying :=
      { s1.buying with rentals :=
        s1.buying.rentals ++
          [{ programme := programme, record := x.2, meter := m, endTime := x.1.rentalEnd,
             extension := if x.1.extension.isSome then .written else .none }] } }
  | _, _ => s

/-- Rental restoration with hotel time as it stands; none while the closing flag is yes (R143). -/
def State.restoreRentals (s : State) : State :=
  match s.notices.hotelTime with
  | none => s
  | some h =>
    if s.store.closing then s
    else (earliestSeven (onePerProgramme (s.store.restorable h))).foldl (State.restoreRental h) s

/-- Restoration handed to the store: made at once, or once the scan after RESTART has been made (R45, R143). -/
def State.handRestoration (s : State) : State :=
  if s.store.awaitingScan then { s with store := { s.store with restoreWaiting := true } } else s.restoreRentals

/-! ## Beacons -/

/-- A time beacon that is taken (R44, R45). DESIGN CHOICE (log entry 42): the first one restores the rentals before the
view decision is taken, once, so that rentals have the meters ahead of a preview. -/
def State.beacon (t : Nat) (s : State) : State :=
  let s1 := { s with notices := { s.notices with hotelTime := some t, restorationPending := false } }
  State.finish (if s.notices.restorationPending then s1.handRestoration else s1)

/-- A discarded beacon or notice is counted (R56). -/
def State.countDiscard (s : State) : State :=
  { s with notices := { s.notices with discardCount := countUp s.notices.discardCount } }

/-- Hotel time after a local second (R42). -/
def hotelTick (t : Nat) : Nat := if t < 4294967295 then t + 1 else t

/-! ## Notices -/

/-- The records of a channel are replaced; a change of programme is handed to the purchase unit, and the composer
re-decides (R53). DESIGN CHOICE (log entry 35): the change reaches the purchase unit first, which ends the previews bound
to the channel, and the one re-decision follows. -/
def State.setRecords (i channel : Nat) (e : NoticeEntry) (s : State) : State :=
  let s1 := s.setNotice i e
  State.finish
    (if ((s.noticeAt i).current.map (·.id)) = e.current.map (·.id) then s1 else s1.programmeChanged channel)

/-- The programme record a notice carries. -/
def programmeOf (f : NoticeFields) : Programme :=
  { id := f.programme.toNat, rating := f.rating.toNat, priceClass := f.priceClass.toNat, start := f.start.toNat,
    stop := f.stop.toNat }

/-- A programme notice whose slot code is 0 CURRENT or 1 NEXT or unknown: checks 2 to 4 of R49, then R50 or R51.
DESIGN CHOICE (log entry 34): a CURRENT notice identical to the current record drops a next record of the same programme
id all the same. -/
def State.notice (slotCode : Nat) (f : NoticeFields) (s : State) : State :=
  match s.entryIndex f.channel.toNat with
  | none => s
  | some i =>
    let p := programmeOf f
    let old := s.noticeAt i
    if 1 < slotCode ∨ p.id = 0 then s.countDiscard
    else if p.stop ≤ p.start then s.countDiscard
    else if slotCode = 0 then
      s.setRecords i f.channel.toNat
        { current := some p, next := old.next.filter fun n => n.id != p.id }
    else s.setNotice i { old with next := some p }

/-! ## Swap and end -/

/-- What a local second brings due for a channel at hotel time t: the first case of R52 that applies. -/
def NoticeEntry.due (e : NoticeEntry) (channel t : Nat) : Option TickEvent :=
  match e.next with
  | some n =>
    if n.start ≤ t then some (.programmeSwap channel)
    else
      match e.current with
      | some c => if c.stop ≤ t then some (.programmeEnd channel) else none
      | none => none
  | none =>
    match e.current with
    | some c => if c.stop ≤ t then some (.programmeEnd channel) else none
    | none => none

/-- The next record becomes current (R52 case 1). -/
def State.swapProgramme (channel : Nat) (s : State) : State :=
  match s.entryIndex channel with
  | none => s
  | some i =>
    let e := s.noticeAt i
    match e.next with
    | none => s
    | some n => s.setRecords i channel { current := some n, next := none }

/-- The current record becomes absent (R52 case 2). -/
def State.endProgramme (channel : Nat) (s : State) : State :=
  match s.entryIndex channel with
  | none => s
  | some i => s.setRecords i channel { s.noticeAt i with current := none }

end Sys2Proof.Machine
end

