-- ==== Sys2Proof/Machine/Tick.lean ====
section
/-!
DEFINITION. The local second (R41) and the events it brings due: lost streams (R20), key waits (R34), swap and end (R52),
timeouts (R68, R111, R150, R167) and meter events (R89 to R91). A tick counts and lists its events; each is then taken
by its own command, or together ahead of the next other command (log entry 7).
-/

namespace Sys2Proof.Machine

/-! ## What a tick brings due -/

/-- Lanes whose silence has reached the watch interval (R19), then lanes whose key wait has run out (R34). -/
def State.lanesDue (s : State) : List TickEvent :=
  (s.lanes.zipIdx.filterMap fun p => if p.1.lossDue then some (.streamLost p.2) else none) ++
    s.lanes.zipIdx.filterMap fun p => if p.1.waitDue s.second then some (.keyWaitExpiry p.2) else none

/-- The swap or end due on a channel table entry's channel (R52). -/
def State.programmeDue (s : State) (i : Nat) : Option TickEvent :=
  match s.entryAt i, s.notices.hotelTime with
  | some e, some t => (s.noticeAt i).due e.number t
  | _, _ => none

def State.programmesDue (s : State) : List TickEvent := (List.range 48).filterMap s.programmeDue

/-- The local second at which PIN entry last took a key, while it is not IDLE (section 4.5). -/
def PinEntry.lastKey : PinEntry → Option Word32
  | .idle => none
  | .rateDigit k => some k
  | .unlock _ _ k => some k
  | .raise _ _ k => some k

/-- PIN entry has waited to its last key second plus 5 (R68). -/
def State.pinTimeoutDue (s : State) : Bool := s.lock.entry.lastKey.any fun k => decide (5 ≤ elapsed k s.second)

/-- A collecting channel entry has waited to the last key second plus 2 (R150). -/
def State.channelTimeoutDue (s : State) : Bool :=
  s.keypad.digits != [] && s.keypad.lastKeySecond.any fun k => decide (2 ≤ elapsed k s.second)

/-- The cut allowance has reached its cut start second plus 2 (R167). -/
def State.cutDue (s : State) : Bool :=
  match s.composer.output with
  | .cutting start => decide (2 ≤ elapsed start s.second)
  | _ => false

/-- The local second count has reached the refusal's expiry second (R111). -/
def State.refusalDue (s : State) : Bool := s.buying.refusal.any fun r => r.expiry == s.second

def State.timeoutsDue (s : State) : List TickEvent :=
  (if s.pinTimeoutDue then [.pinEntryTimeout] else []) ++ (if s.channelTimeoutDue then [.channelEntryTimeout] else [])
    ++ (if s.cutDue then [.cutAllowanceEnd] else []) ++ (if s.refusalDue then [.refusalExpiry] else [])

/-- The events of the meters that count at a tick, from the state the tick finds (R87). -/
def State.metersDue (s : State) : List TickEvent :=
  s.meters.zipIdx.filterMap fun p => if s.meterCounts p.1 then (s.meterTicked p.1).event p.2 else none

/-- What a tick counts: the local second count (R41), hotel time (R42), the meters (R87) and the silence counts (R19). -/
def State.counted (s : State) : State :=
  { s with
    second := s.second + 1
    notices := { s.notices with hotelTime := s.notices.hotelTime.map hotelTick }
    meters := s.meters.map s.meterTicked
    lanes := s.lanes.map Lane.ticked }

/-- A local second: everything is counted, and the events it brings are listed (R41). -/
def State.localSecond (s : State) : State :=
  let s1 := s.counted
  { s1 with due := s1.lanesDue ++ s1.programmesDue ++ s1.timeoutsDue ++ s.metersDue }

/-! ## The events -/

/-- A lane's watch becomes LOST and STREAM_LOST is raised (R20). -/
def State.loseStream (i : Nat) (s : State) : State :=
  State.finish (State.raise .streamLost (s.setLane i (s.lane i).toLost))

/-- A lane's key wait expires and KEY_MISS is raised (R34). -/
def State.endWait (i : Nat) (s : State) : State :=
  State.finish (State.raise .keyMiss (s.setLane i (s.lane i).expireWait))

/-- PIN entry returns to IDLE, its digits discarded, the wrong count as it is (R68, R69). -/
def State.pinIdle (s : State) : State := { s with lock := { s.lock with entry := .idle } }

/-- The digits read as a decimal number (R151). -/
def decimalValue (digits : List Nat) : Nat := digits.foldl (fun n d => 10 * n + d) 0

/-- A channel entry ends without a tune (R152). -/
def State.endEntry (s : State) : State := { s with keypad := { s.keypad with digits := [] } }

/-- A channel named by the keypad unit is tuned, unless it is the tuned channel or not in the table (R151, R153). -/
def State.selectChannel (n : Nat) (s : State) : State := if s.composer.tuned = some n then s else s.tune n

/-- A channel entry completes with the digits collected (R151). -/
def State.completeEntry (s : State) : State := s.endEntry.selectChannel (decimalValue s.keypad.digits)

/-- The refusal is removed at its expiry (R111). -/
def State.expireRefusal (s : State) : State := State.finish s.clearRefusal

/-- The cut allowance runs out (R167). -/
def State.endCut (s : State) : State := State.finish s.beginSlate

/-- A preview's meter has reached its period: the preview ends, its record moves to PREVIEWED and PREVIEW_ENDED is
raised (R106). -/
def State.previewTerminal (i : Nat) (s : State) : State :=
  match s.buying.previews.find? fun p => p.meter == i && p.state == .running with
  | none => s
  | some p => State.raise .previewEnded ((s.dropPreview p.programme).markPreviewed p.record)

/-- A rental's meter has reached its period: its entry is removed and RENTAL_EXPIRED raised (R119). -/
def State.rentalTerminal (i : Nat) (s : State) : State :=
  State.raise .rentalExpired
    { s with buying := { s.buying with rentals := s.buying.rentals.filter fun r => r.meter != i } }

/-- TERMINAL of a meter: it becomes FREE and its owner acts on the use that ended (R90, R92, R72, R74). -/
def State.terminal (i : Nat) (s : State) : State :=
  let s1 := s.setMeter i Meter.free
  State.finish
    (match (s.meter i).use with
     | .free => s1
     | .unlock => s1
     | .lockout => { s1 with lock := { s1.lock with wrongCount := 0 } }
     | .preview => s1.previewTerminal i
     | .rental => s1.rentalTerminal i)

/-- EXTENDED of a meter: it goes on with its buffered period, and the rental's end time moves by it (R91, R118). -/
def State.extendMeter (i : Nat) (s : State) : State :=
  match (s.meter i).buffered with
  | none => s
  | some b =>
    let s1 := s.setMeter i ((s.meter i).extendedBy b)
    State.finish
      { s1 with buying :=
        { s1.buying with rentals :=
          s1.buying.rentals.map fun r => if r.meter = i then { r with endTime := heldTime (r.endTime + b) } else r } }

/-- An event of the last tick as it is taken. One whose cause an earlier event of the same tick has removed acts on
nothing, as the rules of each pair say. -/
def State.perform (s : State) : TickEvent → State
  | .streamLost i => if (s.lane i).lossDue then s.loseStream i else s
  | .keyWaitExpiry i => if (s.lane i).waitDue s.second then s.endWait i else s
  | .programmeSwap n =>
    if (s.entryIndex n).bind s.programmeDue = some (.programmeSwap n) then s.swapProgramme n else s
  | .programmeEnd n =>
    if (s.entryIndex n).bind s.programmeDue = some (.programmeEnd n) then s.endProgramme n else s
  | .pinEntryTimeout => if s.pinTimeoutDue then s.pinIdle else s
  | .channelEntryTimeout => if s.channelTimeoutDue then s.completeEntry else s
  | .cutAllowanceEnd => if s.cutDue then s.endCut else s
  | .refusalExpiry => if s.refusalDue then s.expireRefusal else s
  | .compare i => if (s.meter i).event i = some (.compare i) then s.raise .rentalEnding else s
  | .terminal i => if (s.meter i).event i = some (.terminal i) then s.terminal i else s
  | .extended i => if (s.meter i).event i = some (.extended i) then s.extendMeter i else s

/-- The events of the last tick that no command has taken, taken in the order the tick listed them (log entry 7); and
RESTART is the last event taken no more. -/
def State.catchUp (s : State) : State :=
  s.due.foldl State.perform { s with due := [], keypad := { s.keypad with restarted := false } }

/-! ## How a command reaches the part -/

/-- A command on a powered part: what the last tick left due comes first; an unpowered part takes nothing (log
entries 7 and 10). -/
def State.act (f : State → State) (s : State) : Host.Outcome State Fault Refusal :=
  .next (if s.powered then f s.catchUp else s)

/-- An event of the last tick taken by its own command; one that is not due does not arise (log entries 4 and 7). -/
def State.takeEvent (e : TickEvent) (s : State) : Host.Outcome State Fault Refusal :=
  .next (if s.powered && s.due.contains e then State.perform { s with due := s.due.erase e } e else s)

/-! ## The commands of this file -/

def execLocalSecond (s : State) : Host.Outcome State Fault Refusal := s.act State.localSecond

def execStreamLost (lane : Nat) (s : State) : Host.Outcome State Fault Refusal := s.takeEvent (.streamLost lane)

def execKeyWaitExpiry (lane : Nat) (s : State) : Host.Outcome State Fault Refusal := s.takeEvent (.keyWaitExpiry lane)

def execProgrammeSwap (channel : Nat) (s : State) : Host.Outcome State Fault Refusal :=
  s.takeEvent (.programmeSwap channel)

def execProgrammeEnd (channel : Nat) (s : State) : Host.Outcome State Fault Refusal :=
  s.takeEvent (.programmeEnd channel)

def execPinEntryTimeout (s : State) : Host.Outcome State Fault Refusal := s.takeEvent .pinEntryTimeout

def execChannelEntryTimeout (s : State) : Host.Outcome State Fault Refusal := s.takeEvent .channelEntryTimeout

def execCutAllowanceEnd (s : State) : Host.Outcome State Fault Refusal := s.takeEvent .cutAllowanceEnd

def execRefusalExpiry (s : State) : Host.Outcome State Fault Refusal := s.takeEvent .refusalExpiry

def execCompare (meter : Nat) (s : State) : Host.Outcome State Fault Refusal := s.takeEvent (.compare meter)

def execTerminal (meter : Nat) (s : State) : Host.Outcome State Fault Refusal := s.takeEvent (.terminal meter)

def execExtended (meter : Nat) (s : State) : Host.Outcome State Fault Refusal := s.takeEvent (.extended meter)

/-- OUTPUT_SLOT (R164). -/
def execOutputSlot (s : State) : Host.Outcome State Fault Refusal := s.act State.outputSlot

end Sys2Proof.Machine
end

