-- ==== Sys2Proof/Machine/Lock.lean ====
section
/-!
DEFINITION. The rating lock's own operations: PIN entry (R66 to R71), the windows on meter 0 (R72 to R74), and the
settings LOAD RATING MAP, SET CEILING, SET PIN and SET UNLOCK MINUTES write (R57 to R62, R65, R75).
-/

namespace Sys2Proof.Machine

/-! ## PIN entry -/

/-- PIN entry is RATE_DIGIT or COLLECTING. -/
def PinEntry.active : PinEntry → Bool
  | .idle => false
  | .rateDigit _ => true
  | .unlock _ _ _ => true
  | .raise _ _ _ => true

/-- A good key frame sets PIN entry's last key second (R68, R145 step 1). -/
def PinEntry.touched (now : Word32) : PinEntry → PinEntry
  | .idle => .idle
  | .rateDigit _ => .rateDigit now
  | .unlock n ds _ => .unlock n ds now
  | .raise d ds _ => .raise d ds now

/-- Four digits that match the PIN for purpose UNLOCK: the unlock window opens (R70, R72). -/
def State.unlockMatched (s : State) : State :=
  let s1 := { s with lock := { s.lock with entry := .idle, wrongCount := 0 } }
  State.finish (s1.setMeter 0 (Meter.window .unlock (s.lock.unlockMinutes * 60)))

/-- Four digits that match the PIN for purpose RAISE: G becomes the smaller of the target and F (R70). -/
def State.raiseMatched (target : Nat) (s : State) : State :=
  State.finish
    { s with lock := { s.lock with entry := .idle, wrongCount := 0, g := min target s.lock.stayF } }

/-- Four digits that do not match the PIN: a wrong PIN, and the lockout at the third (R71). -/
def State.pinMismatched (s : State) : State :=
  let s1 := { s with lock := { s.lock with entry := .idle, wrongCount := s.lock.wrongCount + 1 } }
  if 3 ≤ s1.lock.wrongCount then
    State.finish (State.raise .lockout (s1.setMeter 0 (Meter.window .lockout 900)))
  else s1

/-- Whether the digits collected are the PIN, digit by digit (R68). -/
def State.pinIs (s : State) (digits : List Nat) : Bool := s.lock.pin.map pinList == some digits

/-- The digit after RATE, the guest's requested ceiling (R67 cases 1 to 4). -/
def State.rateDigit (d : Nat) (s : State) : State :=
  if d ≤ s.lock.g then State.finish { s with lock := { s.lock with entry := .idle, g := d } }
  else if s.lockoutRunning then s.pinIdle
  else if s.lock.pin = none then s.pinIdle
  else { s with lock := { s.lock with entry := .raise d [] s.second } }

/-- A digit that reaches PIN entry (R66 to R68). -/
def State.pinDigit (d : Nat) (s : State) : State :=
  match s.lock.entry with
  | .idle =>
    match s.composer.tuned with
    | none => s
    | some n =>
      if s.composer.decision = some (.slate .pin) ∧ s.lock.pin ≠ none ∧ s.lockoutRunning = false then
        { s with lock := { s.lock with entry := .unlock n [d] s.second } }
      else s
  | .rateDigit _ => s.rateDigit d
  | .unlock n ds _ =>
    if ds.length < 3 then { s with lock := { s.lock with entry := .unlock n (ds ++ [d]) s.second } }
    else if s.pinIs (ds ++ [d]) then s.unlockMatched
    else s.pinMismatched
  | .raise target ds _ =>
    if ds.length < 3 then { s with lock := { s.lock with entry := .raise target (ds ++ [d]) s.second } }
    else if s.pinIs (ds ++ [d]) then s.raiseMatched target
    else s.pinMismatched

/-- RATE makes PIN entry RATE_DIGIT from every state (R67). -/
def State.rateKey (s : State) : State := { s with lock := { s.lock with entry := .rateDigit s.second } }

/-- An open unlock window closes and meter 0 becomes FREE; a lockout runs on (R72). -/
def State.closeWindow (s : State) : State := if s.unlockOpen then s.setMeter 0 Meter.free else s

/-- LOCK (R73, R69). -/
def State.lockKey (s : State) : State := State.finish s.pinIdle.closeWindow

/-! ## Settings -/

/-- LOAD RATING MAP's check: every one of the sixteen classes lies in 0..7 (R57). A class the cell does not hold
counts as out of range. -/
def ratingMapCheck (classes : List Nat) : Option Reason :=
  if (List.range 16).all fun i => decide (classes.getD i 255 ≤ 7) then none else some .range

/-- The map a LOAD RATING MAP that is taken leaves (R57). -/
def State.loadRatingMap (classes : List Nat) (s : State) : State :=
  State.finish { s with lock := { s.lock with map := (List.range 16).map fun i => classes.getD i 255 } }

/-- Whether a SET CEILING is standing: scope STANDING, or a threshold present (R59). -/
def ceilingStanding (scope : Nat) (threshold : Option Nat) : Bool := scope == 1 || threshold.isSome

/-- SET CEILING's checks (R59). -/
def State.ceilingCheck (s : State) (ceiling scope : Nat) (threshold : Option Nat) : Option Reason :=
  if 7 < ceiling ∨ 1 < scope ∨ (threshold.any fun t => decide (t < 1) || decide (8 < t)) = true then some .range
  else if ceilingStanding scope threshold then s.store.standingCheck
  else none

/-- How far a SET CEILING moves a value held: ALL and GROUP only lower it (R60). -/
def limited (wide : Bool) (held value : Nat) : Nat := if wide then min value held else value

/-- The lock a SET CEILING that is taken leaves (R60, R61). -/
def RatingLock.withCeiling (l : RatingLock) (wide : Bool) (ceiling scope : Nat) (threshold : Option Nat) :
    RatingLock :=
  { l with
    stayF := limited wide l.stayF ceiling
    standingF := if scope = 1 then limited wide l.standingF ceiling else l.standingF
    r := match threshold with
      | some t => limited wide l.r t
      | none => l.r
    g := min l.g (limited wide l.stayF ceiling) }

/-- A SET CEILING that is taken (R59 to R61). DESIGN CHOICE (log entry 43): the WRITE SETTINGS of a standing one joins the
queue before the view decision is taken. -/
def State.setCeiling (wide : Bool) (ceiling scope : Nat) (threshold : Option Nat) (s : State) : State :=
  let s1 := { s with lock := s.lock.withCeiling wide ceiling scope threshold }
  State.finish (if ceilingStanding scope threshold then s1.requestSettings else s1)

/-- SET PIN's check (R65). -/
def pinCheck (pin : Option PinDigits) : Option Reason := if pin.all pinInRange then none else some .range

/-- A SET PIN that is taken: a PIN entry ends, and UNSET closes an open unlock window (R65). -/
def State.setPin (pin : Option PinDigits) (s : State) : State :=
  let s1 := { s with lock := { s.lock with pin := pin, entry := .idle } }
  State.finish (if pin = none then s1.closeWindow else s1)

/-- SET UNLOCK MINUTES' checks (R75). -/
def State.unlockMinutesCheck (s : State) (minutes : Nat) : Option Reason :=
  if minutes < 10 ∨ 240 < minutes then some .range else s.store.standingCheck

/-- A SET UNLOCK MINUTES that is taken (R75). -/
def State.setUnlockMinutes (minutes : Nat) (s : State) : State :=
  State.finish (State.requestSettings { s with lock := { s.lock with unlockMinutes := minutes } })

end Sys2Proof.Machine
end

