-- ==== Sys2Proof/Machine/Selling.lean ====
section
/-!
DEFINITION. The purchase unit's commands: BUY (R110 to R113), the CANCEL of a preview (R107), LOAD PRICE (R96), SET
BILLING (R98), SET CREDIT (R99) and EXTEND RENTAL (R120).
-/

namespace Sys2Proof.Machine

/-! ## BUY -/

/-- The running preview of a programme id. -/
def State.runningPreview (s : State) (programme : Nat) : Option Preview :=
  s.buying.previews.find? fun p => p.programme == programme && p.state == .running

/-- The channel and programme a BUY acts on: the decision is OFFER, or SHOW by a RUNNING preview of the current
programme (R110); a free programme is not bought (R97). -/
def State.buyTarget (s : State) : Option (Nat × Programme) :=
  match s.composer.tuned, s.pricedProgramme with
  | some n, some p =>
    if s.composer.decision = some (.slate .offer)
        ∨ (s.composer.decision = some .show ∧ (s.runningPreview p.id).isSome = true) then some (n, p)
    else none
  | _, _ => none

/-- The checks of a BUY in their order: the refusing slate (R110). -/
def State.buyCheck (s : State) (p : Programme) : Option Slate :=
  if s.store.state = .busy ∨ s.store.closingTest = true ∨ s.store.queueFull = true then some .wait
  else if s.buying.billing = false ∨ s.notices.hotelTime = none ∨ s.store.state = .full ∨ s.store.state = .faulted then
    some .unavailable
  else if s.runningPreview p.id = none ∧ s.freeMeter = none then some .unavailable
  else if s.creditAllows (s.chargeNow (s.priceOf p)) = false then some .credit
  else none

/-- A refused BUY sets the refusal for five seconds (R111). -/
def State.refuseBuy (k : Slate) (channel : Nat) (p : Programme) (s : State) : State :=
  State.finish
    { s with buying :=
      { s.buying with refusal := some { slate := k, programme := p.id, channel := channel, expiry := s.second + 5 } } }

/-- The price fields a commit accepted now writes (R100, R112, R113). -/
def State.commitFields (s : State) (p : Programme) : CommitFields :=
  { price := s.priceOf p, tax := taxOf (s.priceOf p) s.buying.taxRate, charge := s.chargeNow (s.priceOf p),
    time := s.notices.hotelTime.getD 0 }

/-- An entry joins the end of the commit list. -/
def State.addCommit (c : Commit) (s : State) : State :=
  { s with buying := { s.buying with commits := s.buying.commits ++ [c] } }

/-- A preview becomes BUYING. -/
def State.markBuying (programme : Nat) (s : State) : State :=
  { s with buying :=
    { s.buying with previews :=
      s.buying.previews.map fun p => if p.programme = programme then { p with state := .buying } else p } }

/-- A preview buy that is accepted (R112). -/
def State.previewBuy (q : Preview) (p : Programme) (s : State) : State :=
  let f := s.commitFields p
  let s1 := (s.holdPreview q.meter p.id).markBuying p.id
  State.finish
    (State.addCommit
      { programme := p.id, record := q.record, meter := q.meter, charge := f.charge, time := f.time,
        kind := .fromPreview }
      (s1.push (.advance q.record (.committed f))))

/-- The record a direct buy appends (R113). -/
def State.directRecord (s : State) (channel : Nat) (p : Programme) : NewRecord :=
  { folio := s.store.folio, number := s.store.nextRecord, programme := p.id, channel := channel,
    priceClass := p.priceClass, minutes := (s.priceEntry p.priceClass).rentalMinutes,
    commit := some (s.commitFields p) }

/-- A direct buy that is accepted (R113). -/
def State.directBuy (m channel : Nat) (p : Programme) (s : State) : State :=
  let f := s.commitFields p
  State.finish
    (State.addCommit
      { programme := p.id, record := s.store.nextRecord, meter := m, charge := f.charge, time := f.time,
        kind := .direct }
      (((s.reserveMeter m p.id).takeRecordNumber).push (.append (s.directRecord channel p))))

/-- BUY at the purchase unit (R110). -/
def State.buy (s : State) : State :=
  match s.buyTarget with
  | none => s
  | some (n, p) =>
    match s.buyCheck p with
    | some k => s.refuseBuy k n p
    | none =>
      match s.runningPreview p.id, s.freeMeter with
      | some q, _ => s.previewBuy q p
      | none, some m => s.directBuy m n p
      | none, none => s

/-- CANCEL at the purchase unit: a RUNNING preview shown on the tuned channel ends (R107). -/
def State.cancelPreview (s : State) : State :=
  match s.tunedCurrent with
  | none => s
  | some p =>
    match s.runningPreview p.id with
    | none => s
    | some q => if s.composer.decision = some .show then State.finish (s.endPreview q) else s

/-! ## Prices, billing and credit -/

/-- LOAD PRICE's checks (R96). -/
def priceCheck (priceClass : Nat) (price : Half) (rentalMinutes previewSeconds : Nat) : Option Reason :=
  if 15 < priceClass ∨ rentalMinutes < 1 ∨ 4320 < rentalMinutes ∨ 600 < previewSeconds then some .range
  else if priceClass = 0 ∧ price ≠ 0 then some .range
  else none

/-- A LOAD PRICE that is taken (R96). -/
def State.loadPrice (priceClass : Nat) (price : Half) (rentalMinutes previewSeconds : Nat) (s : State) : State :=
  let entry : Price :=
    { price := price.toNat, rentalMinutes := rentalMinutes, previewSeconds := previewSeconds }
  State.finish { s with buying := { s.buying with prices := s.buying.prices.set priceClass entry } }

/-- SET BILLING's checks (R98); an enabled byte other than 0 or 1 is out of range (R196). -/
def State.billingCheck (s : State) (enabled dayCap dayStart defaultCredit : Nat) : Option Reason :=
  if boolOf enabled = none ∨ 200000 < dayCap ∨ 23 < dayStart ∨ 1000000 < defaultCredit then some .range
  else s.store.standingCheck

/-- A SET BILLING that is taken; a tax rate above 2,500 is clamped (R98). DESIGN CHOICE (log entry 43): the WRITE SETTINGS
joins the queue before the view decision is taken. -/
def State.setBilling (enabled taxRate dayCap dayStart defaultCredit : Nat) (s : State) : State :=
  State.finish
    (State.requestSettings
      { s with buying :=
        { s.buying with
          billing := enabled == 1
          taxRate := min taxRate 2500
          dayCap := dayCap
          dayStart := dayStart
          defaultCredit := defaultCredit } })

/-- SET CREDIT's check (R99). -/
def creditCheck (limit : Nat) : Option Reason := if 1000000 < limit then some .range else none

/-- A SET CREDIT that is taken (R99). -/
def State.setCredit (limit : Nat) (s : State) : State := { s with buying := { s.buying with credit := limit } }

/-! ## EXTEND RENTAL -/

/-- EXTEND RENTAL's checks (R120). -/
def State.extendCheck (s : State) (record minutes : Nat) : Option Reason :=
  if record < 1 ∨ 256 < record ∨ minutes < 1 ∨ 4320 < minutes then some .range
  else if s.store.closingTest then some .busy
  else
    match s.rentalOfRecord record with
    | none => some .state
    | some r =>
      if r.extension ≠ .none then some .state
      else if s.store.fault then some .state
      else if s.store.queueFull then some .full
      else none

/-- An EXTEND RENTAL that is taken (R120). -/
def State.extendRental (record minutes : Nat) (s : State) : State :=
  State.finish
    ((s.onRental record fun r => { r with extension := .requested }).push (.writeExtension record minutes))

end Sys2Proof.Machine
end

