-- ==== Sys2Proof/Machine/Keypad.lean ====
section
/-!
DEFINITION. The guest keypad: key frames and their pairing from bytes (R145 to R147, R198), the routing of digits (R148),
channel entry (R149 to R152), stepping (R153) and the other keys (R154 to R156).
-/

namespace Sys2Proof.Machine

/-! ## Keys -/

/-- A digit that joins the channel entry; the third completes it (R149). -/
def State.channelDigit (d : Nat) (s : State) : State :=
  let s1 := { s with keypad := { s.keypad with digits := s.keypad.digits ++ [d] } }
  if s1.keypad.digits.length < 3 then s1 else s1.completeEntry

/-- A digit goes to PIN entry or to the channel entry (R148, R152). -/
def State.digitKey (d : Nat) (s : State) : State :=
  if s.lock.entry.active || s.composer.decision == some (.slate .pin) then s.endEntry.pinDigit d
  else s.channelDigit d

/-- ENTER completes a collecting channel entry (R150). -/
def State.enterKey (s : State) : State := if s.keypad.digits = [] then s else s.completeEntry

/-- The channel numbers of the channel table. -/
def State.numbers (s : State) : List Nat := s.composer.channels.filterMap fun e => e.map (·.number)

/-- The channel CH+ steps to (R153). -/
def State.channelAbove (s : State) : Option Nat :=
  match s.composer.tuned with
  | none => s.numbers.min?
  | some t => (s.numbers.filter fun n => decide (t < n)).min? <|> s.numbers.min?

/-- The channel CH− steps to (R153). -/
def State.channelBelow (s : State) : Option Nat :=
  match s.composer.tuned with
  | none => s.numbers.max?
  | some t => (s.numbers.filter fun n => decide (n < t)).max? <|> s.numbers.max?

/-- A channel step (R152, R153). -/
def State.stepTo (target : Option Nat) (s : State) : State :=
  match target with
  | none => s.endEntry
  | some n => s.endEntry.selectChannel n

/-- CANCEL goes to PIN entry, else to the channel entry, else to the purchase unit (R155). -/
def State.cancelKey (s : State) : State :=
  if s.lock.entry.active then s.pinIdle
  else if s.keypad.digits ≠ [] then s.endEntry
  else s.cancelPreview

/-- What a key code does when its frame is acted on (R146). -/
def State.keyAction (code : Nat) (s : State) : State :=
  match code with
  | 10 => s.enterKey
  | 11 => s.stepTo s.channelAbove
  | 12 => s.stepTo s.channelBelow
  | 13 => s.endEntry.buy
  | 14 => s.cancelKey
  | 15 => s.endEntry.lockKey
  | 16 => s.endEntry.rateKey
  | n => if n < 10 then s.digitKey n else s

/-! ## Key frames -/

/-- Step 1 of R145: both last key seconds become the current count. The frame also uses up a pending first byte
(R198). -/
def State.touchKeys (s : State) : State :=
  { s with
    keypad := { s.keypad with lastKeySecond := some s.second, firstByte := none }
    lock := { s.lock with entry := s.lock.entry.touched s.second } }

/-- Whether a frame acts: one that is not held, or a held CH+ or CH− that repeats the last key (R146, R147). -/
def Keypad.acts (k : Keypad) (code : Nat) (held : Bool) : Bool :=
  !held || ((code == 11 || code == 12) && k.lastKey == some code)

/-- The part of a good key frame that is taken whatever its key: both last key seconds and the last key (R145 steps 1
and 3). -/
def State.frameTouches (code : Nat) (s : State) : State :=
  let s1 := s.touchKeys
  { s1 with keypad := { s1.keypad with lastKey := some code } }

/-- A good key frame (R145). -/
def State.keyFrame (code : Nat) (held : Bool) (s : State) : State :=
  if s.keypad.acts code held then
    let s1 := s.touchKeys.keyAction code
    { s1 with keypad := { s1.keypad with lastKey := some code } }
  else s.frameTouches code

/-- A good key frame as it reaches the part. One that arrives together with a RESTART taken first meets an empty channel
table, and only its check and last key act (R186). DESIGN CHOICE (log entry 44): that is the frame commanded next after
the RESTART, and it sets the last key seconds too, as every good frame does (R145). -/
def State.takeFrame (code : Nat) (held : Bool) (s : State) : Host.Outcome State Fault Refusal :=
  s.act fun t => if s.keypad.restarted then t.frameTouches code else t.keyFrame code held

/-- A key frame error is counted, and a pending first byte is discarded (R145, R198). -/
def State.keyError (s : State) : State :=
  { s with keypad := { s.keypad with errors := countUp s.keypad.errors, firstByte := none } }

/-- The 50 ms of a pending first byte run out (R198). -/
def State.expireFirstByte (s : State) : State := if s.keypad.firstByte = none then s else s.keyError

/-- The frame two bytes form: held flag, key code, and whether the check nibble agrees (section 12.3, R145). -/
def frameOf (b1 b2 : Byte) : Bool × Nat × Bool :=
  let n0 := b1.toNat / 16
  let n1 := b1.toNat % 16
  let n2 := b2.toNat / 16
  (decide (8 ≤ n0), (n0 % 8) * 16 + n1, (n0 + n1 + n2) % 16 == b2.toNat % 16)

/-- A byte on the keypad line: the pending first byte, or the second byte of a frame (R198, R145). -/
def State.keypadByte (b : Byte) (s : State) : State :=
  match s.keypad.firstByte with
  | none => { s with keypad := { s.keypad with firstByte := some b } }
  | some a =>
    let f := frameOf a b
    if f.2.2 then s.keyFrame f.2.1 f.1 else s.keyError

/-! ## The commands of this file -/

/-- DIGIT (R148). -/
def execDigit (d : Fin 10) (held : Bool) (s : State) : Host.Outcome State Fault Refusal :=
  s.takeFrame d.val held

/-- ENTER (R150). -/
def execEnter (held : Bool) (s : State) : Host.Outcome State Fault Refusal := s.takeFrame 10 held

/-- CH+ (R153). -/
def execChPlus (held : Bool) (s : State) : Host.Outcome State Fault Refusal := s.takeFrame 11 held

/-- CH− (R153). -/
def execChMinus (held : Bool) (s : State) : Host.Outcome State Fault Refusal := s.takeFrame 12 held

/-- BUY (R154, R110). -/
def execBuy (held : Bool) (s : State) : Host.Outcome State Fault Refusal := s.takeFrame 13 held

/-- CANCEL (R155). -/
def execCancel (held : Bool) (s : State) : Host.Outcome State Fault Refusal := s.takeFrame 14 held

/-- LOCK (R73). -/
def execLock (held : Bool) (s : State) : Host.Outcome State Fault Refusal := s.takeFrame 15 held

/-- RATE (R67). -/
def execRate (held : Bool) (s : State) : Host.Outcome State Fault Refusal := s.takeFrame 16 held

/-- A frame of a code that names no key (R146). The code of an operand below 17 names a key and is acted on as that
key's. -/
def execUnassignedKeyCode (code : Nat) (held : Bool) (s : State) : Host.Outcome State Fault Refusal :=
  s.takeFrame code held

/-- FIRST_BYTE_EXPIRY (R198). -/
def execFirstByteExpiry (s : State) : Host.Outcome State Fault Refusal := s.act State.expireFirstByte

/-- FRAMING_ERROR (R198). -/
def execFramingError (s : State) : Host.Outcome State Fault Refusal := s.act State.keyError

/-- BAD_FRAME (R145). -/
def execBadFrame (s : State) : Host.Outcome State Fault Refusal := s.act State.keyError

/-- FIRST_BYTE_RECEIVED (R198). -/
def execFirstByteReceived (byte : Byte) (s : State) : Host.Outcome State Fault Refusal := s.act (State.keypadByte byte)

end Sys2Proof.Machine
end

