-- ==== Sys2Proof/Machine/Management.lean ====
section
/-!
DEFINITION. The management decoder and the commands it hands to their owners (R176 to R183): one definition per command
over State.command, which decides addressing, the decoder's checks and the owner's refusal; LOAD CHANNEL (R159, R160),
LOAD SLATE (R170), SET CUT MODE (R174) and CLOSE FOLIO (R139, R140) with their owners' checks.
-/

namespace Sys2Proof.Machine

/-- A management command of kind k: discarded when not addressed (R176), refused RANGE for a target it does not accept
(R178), refused as its owner's check says, else taken (R179). -/
def State.command (t : Target) (k : CommandKind) (check : State → Option Reason) (effect : State → State) (s : State) :
    State :=
  if s.addressed t then
    if targetAccepted k t then
      match check s with
      | some r => s.refuse k r
      | none => effect s
    else s.refuse k .range
  else s

/-! ## The decoder's own command -/

/-- ASSIGN ROOM's checks (R182). -/
def State.roomCheck (s : State) (room group : Nat) : Option Reason :=
  if 9999 < room ∨ 63 < group then some .range else s.store.standingCheck

/-- An ASSIGN ROOM that is taken (R183). -/
def State.assignRoom (room group : Nat) (s : State) : State :=
  State.finish
    (State.requestSettings { s with management := { s.management with room := room, group := group } })

def State.cmdAssignRoom (t : Target) (room group : Nat) (s : State) : State :=
  s.command t .assignRoom (fun s => s.roomCheck room group) (State.assignRoom room group)

/-! ## Lanes, keys and packages -/

def State.cmdLoadLane (t : Target) (lane stream kind package : Nat) (keySlot : Option Nat)
    (firstBlock blockCount watchCode : Nat) (s : State) : State :=
  s.command t .loadLane
    (fun s => s.loadLaneCheck lane (laneConfigOf stream kind package keySlot firstBlock blockCount watchCode))
    (State.loadLane lane (laneConfigOf stream kind package keySlot firstBlock blockCount watchCode))

def State.cmdSetLaneResponse (t : Target) (lane response : Nat) (s : State) : State :=
  s.command t .setLaneResponse (fun s => s.setResponseCheck lane (responseOf response))
    (State.setResponse lane (responseOf response))

def State.cmdLoadKey (t : Target) (slot phase : Nat) (key : Word32) (s : State) : State :=
  s.command t .loadKey (fun _ => keyCheck slot (phaseOf phase)) (State.loadKey slot (phaseOf phase) key)

def State.cmdClearKey (t : Target) (slot phase : Nat) (s : State) : State :=
  s.command t .clearKey (fun _ => keyCheck slot (phaseOf phase)) (State.clearKey slot (phaseOf phase))

/-- A SET PACKAGES that is taken (R39). -/
def State.setPackages (set : Word32) (s : State) : State := State.finish { s with packages := set }

def State.cmdSetPackages (t : Target) (set : Word32) (s : State) : State :=
  s.command t .setPackages (fun _ => none) (State.setPackages set)

/-! ## LOAD CHANNEL -/

/-- The entry a LOAD CHANNEL carries: `some none` for EMPTY, `none` for a value out of range (R159 check 1). -/
def channelEntryOf (form number picture : Nat) (sound : Option Nat) (package defaultClass pay : Nat) :
    Option (Option ChannelEntry) :=
  match form with
  | 0 =>
    match boolOf pay with
    | none => none
    | some p =>
      if 1 ≤ number ∧ number ≤ 999 ∧ picture ≤ 23 ∧ (sound.all fun x => decide (x ≤ 23)) = true ∧ package ≤ 31
          ∧ defaultClass ≤ 7 then
        some (some { number := number, picture := picture, sound := sound, package := package,
                     defaultClass := defaultClass, pay := p })
      else none
  | 1 => some none
  | _ => none

/-- Whether a lane is configured and of a kind (R159 check 3). -/
def State.laneIs (s : State) (i : Nat) (k : LaneKind) : Bool :=
  (s.lane i).configured && (s.lane i).config.any fun c => c.kind == k

/-- LOAD CHANNEL's checks (R159). -/
def State.channelCheck (s : State) (i : Nat) (new : Option (Option ChannelEntry)) : Option Reason :=
  if 47 < i then some .range
  else
    match new with
    | none => some .range
    | some none => none
    | some (some e) =>
      if (s.composer.channels.zipIdx.any fun p => p.2 != i && (p.1.any fun c => c.number == e.number)) = true then
        some .conflict
      else if s.laneIs e.picture .picture && e.sound.all fun x => s.laneIs x .sound then none
      else some .conflict

/-- The entry is written or emptied. -/
def State.setEntry (i : Nat) (new : Option ChannelEntry) (s : State) : State :=
  { s with composer := { s.composer with channels := s.composer.channels.set i new } }

/-- An entry that loses its channel number loses its records, and the loss of a current record is a change of programme
on that channel (R48, R53). -/
def State.dropRecords (i : Nat) (old : ChannelEntry) (s : State) : State :=
  let s1 := s.setNotice i { current := none, next := none }
  if (s.noticeAt i).current = none then s1 else s1.programmeChanged old.number

/-- The output state waits for a start mark if the programme's cells were leaving or waiting to leave (R160). -/
def Composer.awaitStart (c : Composer) : Composer :=
  match c.output with
  | .showing => { c with output := .waitingStart }
  | _ => c

/-- The tuned channel's entry is rewritten under its own number (R160): lanes no longer named are untuned, a new
picture lane makes the output wait for a start mark, and the decision is taken afresh. -/
def State.retuned (old new : ChannelEntry) (s : State) : State :=
  let s1 := s.untuneLanes old (some new)
  if old.picture = new.picture then s1.finish
  else
    let s2 := State.redecide { s1 with composer := s1.composer.awaitStart }
    State.followOutput { s2 with composer := s2.composer.awaitStart }

/-- A LOAD CHANNEL that is taken (R159, R160, R48). -/
def State.loadChannel (i : Nat) (new : Option (Option ChannelEntry)) (s : State) : State :=
  match new with
  | none => s
  | some e =>
    match s.entryAt i with
    | none => State.finish (State.setNotice i { current := none, next := none } (s.setEntry i e))
    | some old =>
      if (e.map (·.number)) = some old.number then
        match e with
        | none => s
        | some n =>
          if s.composer.tuned = some old.number then (s.setEntry i e).retuned old n else State.finish (s.setEntry i e)
      else
        let s1 := (s.setEntry i e).dropRecords i old
        State.finish (if s.composer.tuned = some old.number then s1.untune old else s1)

def State.cmdLoadChannel (t : Target) (entry form number picture : Nat) (sound : Option Nat)
    (package defaultClass pay : Nat) (s : State) : State :=
  s.command t .loadChannel
    (fun s => s.channelCheck entry (channelEntryOf form number picture sound package defaultClass pay))
    (State.loadChannel entry (channelEntryOf form number picture sound package defaultClass pay))

/-! ## Rating lock and purchase unit -/

def State.cmdLoadRatingMap (t : Target) (classes : List Nat) (s : State) : State :=
  s.command t .loadRatingMap (fun _ => ratingMapCheck classes) (State.loadRatingMap classes)

def State.cmdSetCeiling (t : Target) (ceiling scope : Nat) (threshold : Option Nat) (s : State) : State :=
  s.command t .setCeiling (fun s => s.ceilingCheck ceiling scope threshold)
    (State.setCeiling (targetWide t) ceiling scope threshold)

def State.cmdSetPin (t : Target) (pin : Option PinDigits) (s : State) : State :=
  s.command t .setPin (fun _ => pinCheck pin) (State.setPin pin)

def State.cmdSetUnlockMinutes (t : Target) (minutes : Nat) (s : State) : State :=
  s.command t .setUnlockMinutes (fun s => s.unlockMinutesCheck minutes) (State.setUnlockMinutes minutes)

def State.cmdLoadPrice (t : Target) (priceClass : Nat) (price : Half) (rentalMinutes previewSeconds : Nat)
    (s : State) : State :=
  s.command t .loadPrice (fun _ => priceCheck priceClass price rentalMinutes previewSeconds)
    (State.loadPrice priceClass price rentalMinutes previewSeconds)

def State.cmdSetBilling (t : Target) (enabled taxRate dayCap dayStart defaultCredit : Nat) (s : State) : State :=
  s.command t .setBilling (fun s => s.billingCheck enabled dayCap dayStart defaultCredit)
    (State.setBilling enabled taxRate dayCap dayStart defaultCredit)

def State.cmdSetCredit (t : Target) (limit : Nat) (s : State) : State :=
  s.command t .setCredit (fun _ => creditCheck limit) (State.setCredit limit)

def State.cmdExtendRental (t : Target) (record minutes : Nat) (s : State) : State :=
  s.command t .extendRental (fun s => s.extendCheck record minutes) (State.extendRental record minutes)

/-! ## CLOSE FOLIO -/

/-- Whether a record of the current folio is not SETTLED, or the queue holds an operation that would write one (R139
check 4). -/
def State.closeHeldBack (s : State) : Bool :=
  (s.store.records.any fun p => p.1.state != .settled) || s.store.queue.any fun q => q.op.holdsClose

/-- CLOSE FOLIO's checks (R139); a force byte other than 0 or 1 is out of range (R196). -/
def State.closeCheck (s : State) (folio force : Nat) : Option Reason :=
  if boolOf force = none ∨ folio < 1 ∨ 65535 < folio then some .range
  else if folio ≠ s.store.folio then some .stale
  else if s.store.closingTest then some .busy
  else if force = 0 ∧ s.closeHeldBack = true then some .state
  else none

/-- The purchase unit at the taking of a close (R122). -/
def Purchases.closed (p : Purchases) : Purchases :=
  { p with previews := [], commits := [], rentals := [], marking := [], refusal := none, credit := p.defaultCredit }

/-- The rating lock at the taking of a close (R77). -/
def RatingLock.closed (l : RatingLock) : RatingLock :=
  { l with stayF := l.standingF, g := l.standingF, pin := none, wrongCount := 0, entry := .idle }

/-- The store at the taking of a close: closing, with nothing queued behind the operation in flight (R140). -/
def FolioStore.closeTaken (f : FolioStore) : FolioStore :=
  { f with closing := true, queue := f.queue.take 1, scanList := [] }

/-- The close's own operations are queued once nothing is in flight (R140). -/
def State.startClose (s : State) : State := if s.store.queue = [] then s.pushAll s.store.closeOps else s

/-- A CLOSE FOLIO that is taken (R140, R77, R95, R122). -/
def State.closeFolio (s : State) : State :=
  State.finish
    (State.startClose
      { s with
        buying := s.buying.closed
        lock := s.lock.closed
        meters := List.replicate 8 Meter.free
        store := s.store.closeTaken })

def State.cmdCloseFolio (t : Target) (folio force : Nat) (s : State) : State :=
  s.command t .closeFolio (fun s => s.closeCheck folio force) State.closeFolio

/-! ## LOAD SLATE -/

/-- Whether a slate kind and a position are in range (R170 check 1). -/
def slateInRange (kind position : Nat) : Bool := (slateOf kind).isSome && decide (position ≤ 3)

/-- The header section a LOAD SLATE carries: `some none` for EMPTY, `none` for a value out of range (R170 check 2). -/
def slateHeaderOf (f : SlateHeaderFields) : Option (Option SlateHeader) :=
  match f.form with
  | 0 =>
    match boolOf f.startMark, fillsOf f with
    | some start, some fills =>
      if f.stream ≤ 4079 ∧ f.length ≤ 120 ∧ (fills.all fun x => decide (x.offset + 8 ≤ f.length)) = true then
        some (some { stream := f.stream, start := start, length := f.length, fills := fills })
      else none
    | _, _ => none
  | 1 => some none
  | _ => none

/-- Whether two fill fields overlap (R170 check 3). -/
def fillsOverlap : List FillField → Bool
  | [a, b] => decide (a.offset < b.offset + 8) && decide (b.offset < a.offset + 8)
  | _ => false

/-- The checks of a header section (R170). -/
def headerCheck (kind position : Nat) (header : Option (Option SlateHeader)) : Option Reason :=
  if slateInRange kind position then
    match header with
    | none => some .range
    | some none => none
    | some (some h) => if fillsOverlap h.fills then some .conflict else none
  else some .range

/-- The position a header section that is taken leaves (R170). -/
def positionOf : Option SlateHeader → SlatePosition
  | none => .empty
  | some h => .building h none none none

def State.setPosition (kind position : Nat) (p : SlatePosition) (s : State) : State :=
  { s with composer := { s.composer with slates := s.composer.slates.set (4 * kind + position) p } }

def State.loadHeader (kind position : Nat) (header : Option (Option SlateHeader)) (s : State) : State :=
  match header with
  | none => s
  | some h => s.setPosition kind position (positionOf h)

def State.cmdLoadSlateHeader (t : Target) (kind position : Nat) (fields : SlateHeaderFields) (s : State) : State :=
  s.command t .loadSlate (fun _ => headerCheck kind position (slateHeaderOf fields))
    (State.loadHeader kind position (slateHeaderOf fields))

/-- A position held by the composer, by slate code and position. -/
def State.positionAt (s : State) (kind position : Nat) : SlatePosition :=
  s.composer.slates.getD (4 * kind + position) .empty

def SlatePosition.isBuilding : SlatePosition → Bool
  | .building _ _ _ _ => true
  | _ => false

/-- The checks of a payload section (R170). -/
def State.payloadCheck (s : State) (kind position sect : Nat) : Option Reason :=
  if slateInRange kind position = false ∨ 2 < sect then some .range
  else if (s.positionAt kind position).isBuilding then none
  else some .state

/-- A position that holds its header and all three payload sections becomes READY (R170). -/
def SlatePosition.completed : SlatePosition → SlatePosition
  | .building h (some a) (some b) (some c) => .ready h (a ++ b ++ c)
  | p => p

/-- A payload section joins a BUILDING position, replacing that section (R170). -/
def SlatePosition.withSection (p : SlatePosition) (sect : Nat) (bytes : List Byte) : SlatePosition :=
  match p with
  | .building h a b c =>
    SlatePosition.completed
      (match sect with
       | 0 => .building h (some bytes) b c
       | 1 => .building h a (some bytes) c
       | _ => .building h a b (some bytes))
  | _ => p

def State.loadPayload (kind position sect : Nat) (bytes : List Byte) (s : State) : State :=
  s.setPosition kind position ((s.positionAt kind position).withSection sect bytes)

def State.cmdLoadSlatePayload (t : Target) (kind position sect : Nat) (bytes : List Byte) (s : State) : State :=
  s.command t .loadSlate (fun s => s.payloadCheck kind position sect) (State.loadPayload kind position sect bytes)

/-! ## SET CUT MODE -/

/-- SET CUT MODE's checks (R174). -/
def State.cutModeCheck (s : State) (mode : Option CutMode) : Option Reason :=
  if mode = none then some .range else s.store.standingCheck

/-- A SET CUT MODE that is taken; IMMEDIATE ends a cut allowance at once (R174). -/
def State.setCutMode (mode : Option CutMode) (s : State) : State :=
  match mode with
  | none => s
  | some m =>
    let s1 := State.requestSettings { s with composer := { s.composer with cutMode := m } }
    State.finish
      (match m, s1.composer.output with
       | .immediate, .cutting _ => s1.beginSlate
       | _, _ => s1)

def State.cmdSetCutMode (t : Target) (mode : Nat) (s : State) : State :=
  s.command t .setCutMode (fun s => s.cutModeCheck (cutModeOf mode)) (State.setCutMode (cutModeOf mode))

/-! ## Notice flags -/

/-- CLEAR NOTICES (R194). -/
def State.clearNotices (flags : FlagSet) (s : State) : State :=
  { s with reply := s.reply.withFlags (s.reply.flags &&& ~~~flags) s.reply.mask }

/-- SET NOTICE MASK (R194). -/
def State.setNoticeMask (mask : FlagSet) (s : State) : State :=
  { s with reply := s.reply.withFlags s.reply.flags mask }

def State.cmdClearNotices (t : Target) (flags : Half) (s : State) : State :=
  s.command t .clearNotices (fun _ => none) (State.clearNotices (flagsOfHalf flags))

def State.cmdSetNoticeMask (t : Target) (flags : Half) (s : State) : State :=
  s.command t .setNoticeMask (fun _ => none) (State.setNoticeMask (flagsOfHalf flags))

/-- A cell addressed to the room that names no command (R178 check 1). -/
def State.cmdUnknown (t : Target) (s : State) : State :=
  s.command t .unknown (fun _ => some .range) fun s => s

/-! ## The commands of this file -/

def execTimeBeacon (time : Word32) (s : State) : Host.Outcome State Fault Refusal :=
  s.act (State.beacon time.toNat)

def execCurrentNotice (fields : NoticeFields) (s : State) : Host.Outcome State Fault Refusal :=
  s.act (State.notice 0 fields)

def execNextNotice (fields : NoticeFields) (s : State) : Host.Outcome State Fault Refusal :=
  s.act (State.notice 1 fields)

def execAssignRoom (target : Target) (room group : Nat) (s : State) : Host.Outcome State Fault Refusal :=
  s.act (State.cmdAssignRoom target room group)

def execLoadLane (target : Target) (lane stream kind package : Nat) (keySlot : Option Nat)
    (firstBlock blockCount watchCode : Nat) (s : State) : Host.Outcome State Fault Refusal :=
  s.act (State.cmdLoadLane target lane stream kind package keySlot firstBlock blockCount watchCode)

def execSetLaneResponse (target : Target) (lane response : Nat) (s : State) : Host.Outcome State Fault Refusal :=
  s.act (State.cmdSetLaneResponse target lane response)

def execLoadKey (target : Target) (slot phase : Nat) (key : Word32) (s : State) : Host.Outcome State Fault Refusal :=
  s.act (State.cmdLoadKey target slot phase key)

def execClearKey (target : Target) (slot phase : Nat) (s : State) : Host.Outcome State Fault Refusal :=
  s.act (State.cmdClearKey target slot phase)

def execSetPackages (target : Target) (set : Word32) (s : State) : Host.Outcome State Fault Refusal :=
  s.act (State.cmdSetPackages target set)

def execLoadChannel (target : Target) (entry form number picture : Nat) (sound : Option Nat)
    (package defaultClass pay : Nat) (s : State) : Host.Outcome State Fault Refusal :=
  s.act (State.cmdLoadChannel target entry form number picture sound package defaultClass pay)

def execLoadRatingMap (target : Target) (classes : List Nat) (s : State) : Host.Outcome State Fault Refusal :=
  s.act (State.cmdLoadRatingMap target classes)

def execSetCeiling (target : Target) (ceiling scope : Nat) (threshold : Option Nat) (s : State) :
    Host.Outcome State Fault Refusal :=
  s.act (State.cmdSetCeiling target ceiling scope threshold)

def execSetPin (target : Target) (pin : Option PinDigits) (s : State) : Host.Outcome State Fault Refusal :=
  s.act (State.cmdSetPin target pin)

def execSetUnlockMinutes (target : Target) (minutes : Nat) (s : State) : Host.Outcome State Fault Refusal :=
  s.act (State.cmdSetUnlockMinutes target minutes)

def execLoadPrice (target : Target) (priceClass : Nat) (price : Half) (rentalMinutes previewSeconds : Nat)
    (s : State) : Host.Outcome State Fault Refusal :=
  s.act (State.cmdLoadPrice target priceClass price rentalMinutes previewSeconds)

def execSetBilling (target : Target) (enabled taxRate dayCap dayStart defaultCredit : Nat) (s : State) :
    Host.Outcome State Fault Refusal :=
  s.act (State.cmdSetBilling target enabled taxRate dayCap dayStart defaultCredit)

def execSetCredit (target : Target) (limit : Nat) (s : State) : Host.Outcome State Fault Refusal :=
  s.act (State.cmdSetCredit target limit)

def execExtendRental (target : Target) (record minutes : Nat) (s : State) : Host.Outcome State Fault Refusal :=
  s.act (State.cmdExtendRental target record minutes)

def execCloseFolio (target : Target) (folio force : Nat) (s : State) : Host.Outcome State Fault Refusal :=
  s.act (State.cmdCloseFolio target folio force)

def execLoadSlateHeader (target : Target) (kind position : Nat) (fields : SlateHeaderFields) (s : State) :
    Host.Outcome State Fault Refusal :=
  s.act (State.cmdLoadSlateHeader target kind position fields)

def execLoadSlatePayload (target : Target) (kind position sect : Nat) (bytes : List Byte) (s : State) :
    Host.Outcome State Fault Refusal :=
  s.act (State.cmdLoadSlatePayload target kind position sect bytes)

def execSetCutMode (target : Target) (mode : Nat) (s : State) : Host.Outcome State Fault Refusal :=
  s.act (State.cmdSetCutMode target mode)

def execClearNotices (target : Target) (flags : Half) (s : State) : Host.Outcome State Fault Refusal :=
  s.act (State.cmdClearNotices target flags)

def execSetNoticeMask (target : Target) (flags : Half) (s : State) : Host.Outcome State Fault Refusal :=
  s.act (State.cmdSetNoticeMask target flags)

def execUnknownCommand (target : Target) (s : State) : Host.Outcome State Fault Refusal :=
  s.act (State.cmdUnknown target)

end Sys2Proof.Machine
end

