-- ==== Sys2Proof/Machine/Reporting.lean ====
section
/-!
DEFINITION. Upstream reporting: POLL and the frames it builds (R187 to R192), report marking (R191), SETTLE (R193), and the
bytes of a reply frame (R199).
-/

namespace Sys2Proof.Machine

/-! ## Frames -/

/-- A status frame (R189). -/
def State.statusFrame (s : State) (truncation : Nat) : StatusFrame :=
  { unitId := s.management.unitId, room := s.management.room, group := s.management.group, folio := s.store.folio,
    store := s.store.state, flags := s.reply.flags, mask := s.reply.mask, folioTotal := s.store.folioTotal,
    dayCharges := s.dayCharges, credit := s.buying.credit, lastRefusal := s.management.lastRefusal,
    refusedCount := s.management.refusedCount, hotelTime := s.notices.hotelTime, tuned := s.composer.tuned,
    decision := s.composer.decision, truncation := truncation }

/-- A record frame (R190). -/
def State.recordFrame (s : State) (r : Slot × Nat) : RecordFrame :=
  { number := r.2, slot := r.1, state := r.1.state, purchase := r.1.committed,
    rentalEnd := (s.rentalOfRecord r.2).map (·.endTime) }

/-- A lane frame (R192). -/
def State.laneFrame (s : State) (i : Nat) : LaneFrame :=
  let l := s.lane i
  { number := i, config := l.config, response := l.response, watch := l.watch, silence := l.silence,
    expected := l.expected, keyStatus := l.keyStatus, tuned := s.tunedLane i, accepted := l.accepted,
    discontinuities := l.discontinuities, overflowDrops := l.overflowDrops, keyMisses := l.keyMisses,
    sync := s.intake.sync, damageCount := s.intake.damageCount, discardCount := s.notices.discardCount,
    keyErrors := s.keypad.errors }

/-- Frames join the reply queue (R187). -/
def State.enqueue (frames : List ReplyFrame) (s : State) : State :=
  { s with reply := { s.reply with queue := s.reply.queue ++ frames } }

/-- The room of the reply queue (R187). -/
def State.replyRoom (s : State) : Nat := 16 - s.reply.queue.length

/-! ## POLL -/

/-- A POLL whose form passes check 1 (R188 checks 2 to 4). -/
def State.pollTaken (answer : State → State) (s : State) : State :=
  if s.replyRoom = 0 then s
  else if s.store.closingTest then s.enqueue [.status (s.statusFrame 0)]
  else answer s

/-- POLL STATUS (R189). -/
def State.answerStatus (s : State) : State := s.enqueue [.status (s.statusFrame 0)]

/-- The records a POLL RECORDS from n, up to k, lists (R190). -/
def State.listed (s : State) (first count : Nat) : List (Slot × Nat) :=
  (s.store.records.filter fun p => decide (first ≤ p.2) && p.1.state != .opened).take count

/-- An ADVANCE RANGE is asked for; a store that does not accept it, or a full queue, leaves the records as they were
(R130, R191). -/
def State.requestRange (target : RangeTarget) (numbers : List Nat) (s : State) : State :=
  if s.store.accepts && !s.store.queueFull then s.push (.advanceRange target numbers) else s

/-- POLL RECORDS (R190, R191). -/
def State.answerRecords (first count : Nat) (s : State) : State :=
  let listed := s.listed first count
  let built := listed.take (s.replyRoom - 1)
  let s1 := s.enqueue
    (.status (s.statusFrame (listed.length - built.length)) :: built.map fun r => .record (s.recordFrame r))
  if built = [] then s1 else State.finish (s1.requestRange .reported (built.map (·.2)))

/-- POLL LANE (R192). -/
def State.answerLane (i : Nat) (s : State) : State :=
  if s.replyRoom = 1 then s.enqueue [.status (s.statusFrame 0)]
  else s.enqueue [.status (s.statusFrame 0), .lane (s.laneFrame i)]

/-- R188 check 1 for the form RECORDS. -/
def recordsCheck (first count : Nat) : Option Reason :=
  if first < 1 ∨ 256 < first ∨ count < 1 ∨ 12 < count then some .range else none

/-- R188 check 1 for the form LANE. -/
def laneFormCheck (lane : Nat) : Option Reason := if 23 < lane then some .range else none

def State.cmdPollStatus (t : Target) (s : State) : State :=
  s.command t .poll (fun _ => none) (State.pollTaken State.answerStatus)

def State.cmdPollRecords (t : Target) (first count : Nat) (s : State) : State :=
  s.command t .poll (fun _ => recordsCheck first count) (State.pollTaken (State.answerRecords first count))

def State.cmdPollLane (t : Target) (lane : Nat) (s : State) : State :=
  s.command t .poll (fun _ => laneFormCheck lane) (State.pollTaken (State.answerLane lane))

/-! ## SETTLE -/

/-- SETTLE's checks (R193). -/
def State.settleCheck (s : State) (folio through : Nat) : Option Reason :=
  if folio < 1 ∨ 65535 < folio ∨ through < 1 ∨ 256 < through then some .range
  else if folio ≠ s.store.folio then some .stale
  else if s.store.closingTest then some .busy
  else if s.store.fault then some .state
  else if s.store.queueFull then some .full
  else none

/-- A SETTLE that is taken: one ADVANCE RANGE to SETTLED over 1..m (R193). -/
def State.settle (through : Nat) (s : State) : State :=
  State.finish (s.push (.advanceRange .settled (List.range' 1 through)))

def State.cmdSettle (t : Target) (folio through : Nat) (s : State) : State :=
  s.command t .settle (fun s => s.settleCheck folio through) (State.settle through)

/-! ## The bytes of a frame -/

/-- A number in n bytes, most significant first (R196). -/
def bytesOf : Nat → Nat → List Byte
  | 0, _ => []
  | n + 1, v => bytesOf n (v / 256) ++ [BitVec.ofNat 8 v]

/-- A boolean byte of a frame. DESIGN CHOICE (log entry 41): 1 is yes or set, 0 no or clear. -/
def boolByte (b : Bool) : Byte := if b then 1 else 0

/-- An optional one-byte field whose absence is all ones (R196). -/
def optByte : Option Nat → List Byte
  | some v => bytesOf 1 v
  | none => [0xFF]

def StoreState.code : StoreState → Nat
  | .ready => 0
  | .busy => 1
  | .closing => 2
  | .full => 3
  | .faulted => 4

def Reason.code : Reason → Nat
  | .busy => 0
  | .range => 1
  | .conflict => 2
  | .state => 3
  | .stale => 4
  | .full => 5

/-- 0 SHOW, 1..9 the slates in the order of the slate list (R199). -/
def View.code : View → Nat
  | .show => 0
  | .slate k => k.index + 1

def RecordState.code : RecordState → Nat
  | .opened => 0
  | .previewed => 1
  | .committed => 2
  | .reported => 3
  | .settled => 4

def Response.code : Response → Nat
  | .idle => 0
  | .hold => 1
  | .pass => 2
  | .block => 3

def Watch.code : Watch → Nat
  | .unarmed => 0
  | .armed => 1
  | .lost => 2

def LaneKind.code : LaneKind → Nat
  | .picture => 0
  | .sound => 1

def KeyStatus.code : KeyStatus → Nat
  | .keyed => 0
  | .keywait _ _ _ => 1
  | .keyless => 2

/-- The key wait start second of a lane frame (R199). DESIGN CHOICE (log entry 38): its four bytes are 0 while the lane is
not in KEYWAIT, since the field has no presence bit. -/
def KeyStatus.startSecond : KeyStatus → Nat
  | .keywait start _ _ => start.toNat
  | _ => 0

def SyncState.code : SyncState → Nat
  | .search => 0
  | .locked => 1

/-- The 40 content bytes of a status frame (R199). -/
def StatusFrame.bytes (f : StatusFrame) : List Byte :=
  bytesOf 6 f.unitId ++ bytesOf 2 f.room ++ bytesOf 1 f.group ++ bytesOf 2 f.folio ++ bytesOf 1 f.store.code
    ++ bytesOf 2 f.flags.toNat ++ bytesOf 2 f.mask.toNat ++ bytesOf 4 f.folioTotal ++ bytesOf 4 f.dayCharges
    ++ bytesOf 3 f.credit ++ optByte (f.lastRefusal.map (·.1.code)) ++ optByte (f.lastRefusal.map (·.2.code))
    ++ bytesOf 2 f.refusedCount ++ bytesOf 4 (f.hotelTime.getD 0) ++ [boolByte f.hotelTime.isSome]
    ++ bytesOf 2 (f.tuned.getD 0) ++ optByte (f.decision.map View.code) ++ bytesOf 1 f.truncation

/-- The presence bits of a record frame: price, tax, charge, commit time, extension minutes, rental end (R199). -/
def RecordFrame.presence (f : RecordFrame) : Nat :=
  f.slot.price.isSome.toNat + 2 * f.slot.tax.isSome.toNat + 4 * f.slot.charge.isSome.toNat
    + 8 * f.slot.commitTime.isSome.toNat + 16 * f.slot.extension.isSome.toNat + 32 * f.rentalEnd.isSome.toNat

/-- The 31 content bytes of a record frame (R199). -/
def RecordFrame.bytes (f : RecordFrame) : List Byte :=
  bytesOf 2 (f.slot.folio.getD 0) ++ bytesOf 2 f.number ++ bytesOf 2 (f.slot.programme.getD 0)
    ++ bytesOf 2 (f.slot.channel.getD 0) ++ bytesOf 1 (f.slot.priceClass.getD 0) ++ bytesOf 2 (f.slot.minutes.getD 0)
    ++ bytesOf 1 f.presence ++ bytesOf 2 (f.slot.price.getD 0) ++ bytesOf 2 (f.slot.tax.getD 0)
    ++ bytesOf 3 (f.slot.charge.getD 0) ++ bytesOf 4 (f.slot.commitTime.getD 0)
    ++ bytesOf 2 (f.slot.extension.getD 0) ++ bytesOf 1 f.state.code ++ [boolByte !f.purchase]
    ++ bytesOf 4 (f.rentalEnd.getD 0)

/-- The nine configuration bytes of a lane frame: a presence byte, then the fields, 0 while the lane has never been
loaded (R192, R199). -/
def configBytes : Option LaneConfig → List Byte
  | none => List.replicate 9 0
  | some c =>
    [1] ++ bytesOf 2 c.stream ++ bytesOf 1 c.kind.code ++ bytesOf 1 c.package ++ optByte c.keySlot
      ++ bytesOf 1 c.firstBlock ++ bytesOf 1 c.blockCount ++ bytesOf 1 c.watchCode

/-- The 35 content bytes of a lane frame (R199). -/
def LaneFrame.bytes (f : LaneFrame) : List Byte :=
  bytesOf 1 f.number ++ configBytes f.config ++ bytesOf 1 f.response.code ++ bytesOf 1 f.watch.code
    ++ bytesOf 1 f.silence ++ optByte f.expected ++ bytesOf 1 f.keyStatus.code ++ bytesOf 4 f.keyStatus.startSecond
    ++ [boolByte f.tuned] ++ bytesOf 2 f.accepted ++ bytesOf 2 f.discontinuities ++ bytesOf 2 f.overflowDrops
    ++ bytesOf 2 f.keyMisses ++ bytesOf 1 f.sync.code ++ bytesOf 2 f.damageCount ++ bytesOf 2 f.discardCount
    ++ bytesOf 2 f.keyErrors

/-- The sum of bytes mod 256. -/
def sumBytes (bs : List Byte) : Byte := bs.foldl (· + ·) 0

/-- A frame on the line: lead, type, length, content and frame check (R199). -/
def framed (type : Byte) (content : List Byte) : List Byte :=
  let body := type :: BitVec.ofNat 8 content.length :: content
  (0xA5 :: body) ++ [sumBytes body]

/-- The bytes of a reply frame as it goes out (R199). -/
def ReplyFrame.bytes : ReplyFrame → List Byte
  | .status f => framed 0 f.bytes
  | .record f => framed 1 f.bytes
  | .lane f => framed 2 f.bytes

/-- The oldest frame has been sent: it leaves the queue and the next oldest begins (R187). -/
def State.frameSent (s : State) : State :=
  match s.reply.queue with
  | [] => s
  | f :: rest => { s with reply := { s.reply with queue := rest, line := f.bytes } }

/-! ## The commands of this file -/

def execPollStatus (target : Target) (s : State) : Host.Outcome State Fault Refusal :=
  s.act (State.cmdPollStatus target)

def execPollRecords (target : Target) (first count : Nat) (s : State) : Host.Outcome State Fault Refusal :=
  s.act (State.cmdPollRecords target first count)

def execPollLane (target : Target) (lane : Nat) (s : State) : Host.Outcome State Fault Refusal :=
  s.act (State.cmdPollLane target lane)

def execSettle (target : Target) (folio through : Nat) (s : State) : Host.Outcome State Fault Refusal :=
  s.act (State.cmdSettle target folio through)

def execFrameSent (s : State) : Host.Outcome State Fault Refusal := s.act State.frameSent

end Sys2Proof.Machine
end

