-- ==== Sys2Proof/Machine/Completions.lean ====
section
/-!
DEFINITION. The completion of a store operation: the one retry, the final result, what the requester is told, and what
follows for the queue, the close and the lists that wait for room (R129, R131 to R137, R140, R144).
-/

namespace Sys2Proof.Machine

/-- The kind of a store operation, as the commands of the table name it. -/
inductive OpKind where
  | append | advance | advanceRange | writeExtension | writeSettings | eraseSector | closeMark
deriving DecidableEq, Repr

def StoreOp.kind : StoreOp → OpKind
  | .append _ => .append
  | .advance _ _ => .advance
  | .advanceRange _ _ => .advanceRange
  | .writeExtension _ _ => .writeExtension
  | .writeSettings _ _ => .writeSettings
  | .eraseSector _ => .eraseSector
  | .closeMark => .closeMark

/-- Whether the operation is the close's ending write (R140). -/
def StoreOp.isEnding : StoreOp → Bool
  | .writeSettings ending _ => ending
  | _ => false

/-- The operation in flight leaves the queue (R129). -/
def State.popOp (s : State) : State := { s with store := { s.store with queue := s.store.queue.drop 1 } }

/-- The stored content changes. -/
def State.stored (f : FolioStore → FolioStore) (s : State) : State := { s with store := f s.store }

/-- The close ends with its ending write: the next folio begins (R140). -/
def State.closeEnds (s : State) : State :=
  State.raise .closeDone
    { s with store :=
      { s.store with folio := nextFolio s.store.folio, nextRecord := 1, closing := false, fault := false,
                     resumed := false } }

/-- The room a completion leaves: the marking list's oldest number, then the scan list's (R109, R129). -/
def State.fillRoom (s : State) : State := s.takeMarking.takeScanList

/-- The next operation starts. An ADVANCE RANGE that finds nothing to program completes OK at once and leaves room in its
turn (R129, R132); `more` bounds how many stand before the operation that stays in flight. -/
def State.startNext : (more : Nat) → State → State
  | 0, s => s.startHead
  | more + 1, s =>
    if s.store.queue.head?.any fun q => s.store.idleRange q.op then s.popOp.fillRoom.startNext more else s.startHead

/-- What follows a completion once its operation has left the queue: the next operation starts, or the close's own
operations are queued when an operation from before the close was the one in flight (R129, R140). -/
def State.proceed (op : StoreOp) (s : State) : State :=
  if s.store.closing && !op.ofClose then s.startClose else s.startNext s.store.queue.length

/-- A completion OK, or a retry OK (R129, R134). While the store awaits its scan the requester finds nothing to act on
(R144). -/
def State.opDone (op : StoreOp) (s : State) : State :=
  let s1 := (s.stored fun f => f.programAll op).popOp
  if s1.store.awaitingScan then s1
  else
    let s2 := s1.requesterOk op
    let s3 := if op.isEnding then s2.closeEnds else s2
    State.finish (s3.fillRoom.proceed op)

/-- The first FAIL: the same operation starts again in its place (R134). An ADVANCE RANGE whose first attempt programmed
all it had found now finds nothing, and completes OK at once (R132). -/
def State.opRetried (q : QueuedOp) (programmed : Nat) (s : State) : State :=
  let again : QueuedOp := { q with retried := true, wrote := !(s.store.attempted q.op programmed).isEmpty }
  let s1 := s.stored fun f => { f.programSteps q.op programmed with queue := again :: f.queue.drop 1 }
  if s1.store.idleRange q.op then s1.opDone q.op else s1

/-- Each operation waiting in the queue is removed and its requester told FAIL (R134). -/
def State.dropWaiting (s : State) : State :=
  s.store.queue.foldl (fun s q => s.requesterFail q.op) { s with store := { s.store with queue := [] } }

/-- The final FAIL (R134): the store is FAULTED with an empty queue and STORE_ERROR is raised. A close stops at the
failure of its own operation, and goes on after that of an earlier one (R140). While the store awaits its scan only
STORE_ERROR remains of it (R144). -/
def State.opFailed (op : StoreOp) (programmed : Nat) (s : State) : State :=
  let s1 := State.raise .storeError (s.stored fun f => f.programSteps op programmed).popOp
  if s1.store.awaitingScan then s1
  else
    let s2 := (s1.requesterFail op).dropWaiting
    let s3 := s2.stored fun f => { f with fault := true, closing := f.closing && !op.ofClose }
    State.finish (if s3.store.closing then s3.startClose else s3)

/-- A completion FAIL: the operation is retried once, then has failed (R134). -/
def State.opFails (q : QueuedOp) (programmed : Nat) (s : State) : State :=
  if q.retried then s.opFailed q.op programmed else s.opRetried q programmed

/-- A completion of the operation in flight, if it is of the kind the command names; another does not arise (log
entry 4). What the operation finds may make it complete FAIL (R131, R133) or OK (R131, R132) whatever result is named
(log entry 17). -/
def State.completion (kind : OpKind) (result : OpResult) (s : State) : State :=
  match s.store.queue with
  | [] => s
  | q :: _ =>
    if q.op.kind = kind then
      if s.store.contentFails q then s.opFails q 0
      else
        match result with
        | .ok => s.opDone q.op
        | .fail programmed => if s.store.contentDone q.op then s.opDone q.op else s.opFails q programmed
    else s

/-! ## The commands of this file -/

def execAppendCompletes (result : OpResult) (s : State) : Host.Outcome State Fault Refusal :=
  s.act (State.completion .append result)

def execAdvanceCompletes (result : OpResult) (s : State) : Host.Outcome State Fault Refusal :=
  s.act (State.completion .advance result)

def execAdvanceRangeCompletes (result : OpResult) (s : State) : Host.Outcome State Fault Refusal :=
  s.act (State.completion .advanceRange result)

def execWriteExtensionCompletes (result : OpResult) (s : State) : Host.Outcome State Fault Refusal :=
  s.act (State.completion .writeExtension result)

def execWriteSettingsCompletes (result : OpResult) (s : State) : Host.Outcome State Fault Refusal :=
  s.act (State.completion .writeSettings result)

def execEraseSectorCompletes (result : OpResult) (s : State) : Host.Outcome State Fault Refusal :=
  s.act (State.completion .eraseSector result)

def execCloseMarkCompletes (result : OpResult) (s : State) : Host.Outcome State Fault Refusal :=
  s.act (State.completion .closeMark result)

end Sys2Proof.Machine
end

