-- ==== Sys2Proof/Machine/Power.lean ====
section
/-!
DEFINITION. Power-on and its scan (R138, R141, R142), the removal of power (R135), RESTART (R184, R185) and the SCAN that
follows it (R144).
-/

namespace Sys2Proof.Machine

/-! ## The scan -/

/-- The standing settings and room assignment the page gives: its values if its valid mark is programmed, else those
of section 7.5 (R138). -/
def Page.standing (p : Page) : Standing :=
  if p.validMark then
    { f := p.f.getD 7, r := p.r.getD 8, unlockMinutes := p.unlockMinutes.getD 60, billing := p.billing.getD false,
      taxRate := p.taxRate.getD 0, dayCap := p.dayCap.getD 0, dayStart := p.dayStart.getD 0,
      defaultCredit := p.defaultCredit.getD 0, cutMode := p.cutMode.getD .immediate, room := p.room.getD 0,
      group := p.group.getD 0 }
  else Standing.initial

/-- The current folio number: the page's, else the lowest-numbered record's, else 1 (R138). -/
def FolioStore.scanFolio (f : FolioStore) : Nat :=
  match f.page.folio with
  | some n => n
  | none => ((f.slots.find? fun p => p.1.opened).bind fun p => p.1.folio).getD 1

/-- The next record number: one more than the highest slot that holds any programmed field (R125). -/
def FolioStore.scanNext (f : FolioStore) : Nat :=
  (f.slots.foldl (fun n p => if p.1 = Slot.erased then n else p.2) 0) + 1

/-- The OPENED records of the current folio, in record-number order (R141 step 3). -/
def FolioStore.openedNumbers (f : FolioStore) : List Nat :=
  (f.records.filter fun p => p.1.state == .opened).map (·.2)

/-- Standing values come into force, with the stay F, G and the credit limit set from them (R76, R123, R144). -/
def State.withStanding (v : Standing) (s : State) : State :=
  { s with
    lock :=
      { s.lock with standingF := v.f, stayF := v.f, g := v.f, r := v.r, unlockMinutes := v.unlockMinutes }
    buying :=
      { s.buying with billing := v.billing, taxRate := v.taxRate, dayCap := v.dayCap, dayStart := v.dayStart,
                      defaultCredit := v.defaultCredit, credit := v.defaultCredit }
    composer := { s.composer with cutMode := v.cutMode }
    management := { s.management with room := v.room, group := v.group } }

/-- A close is resumed: no sector holds records from now on, and its remaining operations are queued (R142). The
content of a sector stands until its own erase starts. -/
def State.resumeClose (s : State) : State :=
  State.pushAll s.store.resumedCloseOps
    { s with store :=
      { s.store with closing := true, resumed := true, nextRecord := 1, scanList := [], queue := [] } }

/-- Steps 2 to 4 of the scan: the next record number, the ADVANCEs of OPENED records, and a WRITE SETTINGS for a page
that held none (R141). -/
def State.scanRecords (s : State) : State :=
  let opened := s.store.openedNumbers
  let held := s.store.page.validMark
  let room := if held then 8 else 7
  State.pushAll
    ((opened.take room).map (fun n => StoreOp.advance n .previewed) ++ if held then [] else [.writeSettings false none])
    { s with store :=
      { s.store with nextRecord := s.store.scanNext, closing := false, scanList := opened.drop room, queue := [] } }

/-- The scan (R141, R144): the page is read, a close is resumed or the records are read, and a restoration that waited
is made (R143). DESIGN CHOICE (log entry 40): a cut allowance in progress runs on when the cut mode read from the page is
IMMEDIATE. DESIGN CHOICE (log entry 42): the restoration comes before the view decision. -/
def State.scanned (s : State) : State :=
  let s1 := State.withStanding s.store.page.standing
    { s with store :=
      { s.store with folio := s.store.scanFolio, fault := false, awaitingScan := false, resumed := false } }
  let s2 := if s1.store.page.closeMark then s1.resumeClose else s1.scanRecords
  State.finish
    (if s2.store.restoreWaiting then
      State.restoreRentals { s2 with store := { s2.store with restoreWaiting := false } }
     else s2)

/-! ## Power -/

/-- A store with its sectors and page and nothing else in hand. -/
def FolioStore.cold (f : FolioStore) : FolioStore :=
  { sectors := f.sectors, page := f.page, folio := 1, nextRecord := 1, queue := [], fault := false, closing := false,
    scanList := [], awaitingScan := false, restoreWaiting := false, resumed := false }

/-- Every block at its power-on values but for what the page gives, the store's content and the unit identifier kept. -/
def State.cold (s : State) : State :=
  { State.reset with
    store := s.store.cold
    management := { unitId := s.management.unitId, room := 0, group := 0, lastRefusal := none, refusedCount := 0 }
    pending := s.pending }

/-- Room power is applied: power-on values everywhere, and the scan (R141). -/
def State.powerOn (s : State) : State := s.cold.scanned

/-- The content an operation in flight leaves when power is cut after `programmed` of its steps (R135). -/
def FolioStore.cut (f : FolioStore) (programmed : Nat) : FolioStore :=
  match f.queue with
  | [] => f
  | q :: _ => f.programSteps q.op programmed

/-- Room power is removed: all but the stored content is lost (R135). What the volatile items read as without power is
the model's choice (log entry 11). -/
def State.powerRemoved (programmed : Nat) (s : State) : State :=
  let s1 := State.cold { s with store := s.store.cut programmed }
  { s1 with powered := false, reply := s1.reply.withFlags 0 0 }

/-! ## RESTART -/

/-- RESTART (R184, R185, R144): power-on values with the standing settings and room assignment in force kept until the
scan, the operation in flight kept, and cell intake searching from the byte it has reached (R5). DESIGN CHOICE (log entry
37): the current folio number and the next record number too keep their values until the scan. The key frame that comes
next has arrived together with it (R186, log entry 44). -/
def State.restart (s : State) : State :=
  let s1 := State.withStanding s.standing s.cold
  { s1 with
    intake := { Intake.initial with position := s.intake.position }
    keypad := { Keypad.initial with restarted := true }
    store :=
      { s.store with queue := s.store.queue.take 1, fault := false, closing := false, scanList := [],
                     awaitingScan := true, restoreWaiting := false } }

def State.cmdRestart (t : Target) (s : State) : State := s.command t .restart (fun _ => none) State.restart

/-- SCAN: made once no operation is in flight after a RESTART (R144). -/
def State.scan (s : State) : State := if s.store.awaitingScan && s.store.queue.isEmpty then s.scanned else s

/-! ## The commands of this file -/

/-- POWER_ON (R141); a part that has power takes it as power cut with nothing more programmed and applied again (log
entry 12). DESIGN CHOICE (log entry 36): events of the last local second still due are lost undelivered. -/
def execPowerOn (s : State) : Host.Outcome State Fault Refusal := .next s.powerOn

/-- POWER_REMOVED (R135); a part without power has none to lose. DESIGN CHOICE (log entry 36): events of the last local
second still due are lost undelivered. -/
def execPowerRemoved (programmed : Nat) (s : State) : Host.Outcome State Fault Refusal :=
  .next (if s.powered then s.powerRemoved programmed else s)

def execRestart (target : Target) (s : State) : Host.Outcome State Fault Refusal := s.act (State.cmdRestart target)

def execScan (s : State) : Host.Outcome State Fault Refusal := s.act State.scan

end Sys2Proof.Machine
end

