-- ==== Sys2Proof/Machine/Formats.lean ====
section
/-!
DEFINITION. The byte layouts of received cells: the header and its four checks (R1, section 12.1), and the payloads of
time beacons, programme notices and management cells (R196, section 12.2).
-/

namespace Sys2Proof.Machine

/-! ## Bytes and numbers -/

/-- A number sent most significant byte first (R196). -/
def natOf (bs : List Byte) : Nat := bs.foldl (fun n b => 256 * n + b.toNat) 0

/-- The bytes of a field. -/
def field (bs : List Byte) (start width : Nat) : List Byte := (bs.drop start).take width

/-- The number a field of a payload carries. -/
def num (bs : List Byte) (start width : Nat) : Nat := natOf (field bs start width)

/-- A one-byte field whose all-ones value marks it absent (R196). -/
def optNum (bs : List Byte) (at' : Nat) : Option Nat := if num bs at' 1 = 255 then none else some (num bs at' 1)

def word32 (bs : List Byte) (start : Nat) : Word32 := BitVec.ofNat 32 (num bs start 4)

def half (bs : List Byte) (start : Nat) : Half := BitVec.ofNat 16 (num bs start 2)

/-! ## Headers -/

/-- The key mark's code: 3 is damage (section 12.1). -/
def keyMarkOf : Nat → Option KeyMark
  | 0 => some .clear
  | 1 => some .phaseA
  | 2 => some .phaseB
  | _ => none

def KeyMark.code : KeyMark → Nat
  | .clear => 0
  | .phaseA => 1
  | .phaseB => 2

/-- The cell of 128 bytes with a good header; `none` for header damage (R1). -/
def cellOf (bs : List Byte) : Option Cell :=
  let b3 := num bs 3 1
  match keyMarkOf (b3 / 64) with
  | none => none
  | some mark =>
    if num bs 0 1 = 0xB8 ∧ field bs 7 1 = [sumBytes (bs.take 7)] ∧ num bs 4 1 ≤ 120 then
      some { stream := num bs 1 2 / 16, seq := num bs 2 1 % 16, mark := mark, start := b3 / 32 % 2 == 1,
             spareBits := BitVec.ofNat 5 (b3 % 32), length := num bs 4 1, spare5 := bs.getD 5 0, spare6 := bs.getD 6 0,
             payload := field bs 8 120 }
    else none

/-- The bytes of a cell, its header check computed over the header (section 12.1, R197). -/
def Cell.bytes (c : Cell) : List Byte :=
  let head : List Byte :=
    [0xB8, BitVec.ofNat 8 (c.stream / 16), BitVec.ofNat 8 (c.stream % 16 * 16 + c.seq),
     BitVec.ofNat 8 (c.mark.code * 64 + c.start.toNat * 32 + c.spareBits.toNat), BitVec.ofNat 8 c.length, c.spare5,
     c.spare6]
  head ++ [sumBytes head] ++ c.payload

/-! ## Notices -/

/-- The fields of a programme notice's payload (section 12.2). -/
def noticeFieldsOf (p : List Byte) : NoticeFields :=
  { channel := half p 0, programme := half p 3, rating := BitVec.ofNat 4 (num p 5 1 / 16),
    priceClass := BitVec.ofNat 4 (num p 5 1 % 16), start := word32 p 6, stop := word32 p 10 }

/-! ## Management cells -/

/-- The target of a management cell's head; `none` for an unknown kind (section 12.2, R176). -/
def targetOf (p : List Byte) : Option Target :=
  match num p 0 1 with
  | 0 => some .all
  | 1 => some (.group (num p 1 6))
  | 2 => some (.room (num p 1 6))
  | 3 => some (.unit (num p 1 6))
  | _ => none

/-- The command a code names (section 12.2). -/
def commandKindOf : Nat → Option CommandKind
  | 0 => some .assignRoom
  | 1 => some .restart
  | 2 => some .loadLane
  | 3 => some .setLaneResponse
  | 4 => some .loadKey
  | 5 => some .clearKey
  | 6 => some .setPackages
  | 7 => some .loadChannel
  | 8 => some .loadRatingMap
  | 9 => some .setCeiling
  | 10 => some .setPin
  | 11 => some .setUnlockMinutes
  | 12 => some .loadPrice
  | 13 => some .setBilling
  | 14 => some .setCredit
  | 15 => some .extendRental
  | 16 => some .closeFolio
  | 17 => some .loadSlate
  | 18 => some .setCutMode
  | 19 => some .poll
  | 20 => some .settle
  | 21 => some .clearNotices
  | 22 => some .setNoticeMask
  | _ => none

/-- The parameter length of a command; a LOAD SLATE's depends on its section byte (section 12.2). -/
def parameterLength (p : List Byte) : CommandKind → Nat
  | .assignRoom => 3
  | .restart => 0
  | .loadLane => 9
  | .setLaneResponse => 2
  | .loadKey => 6
  | .clearKey => 2
  | .setPackages => 4
  | .loadChannel => 9
  | .loadRatingMap => 16
  | .setCeiling => 3
  | .setPin => 4
  | .setUnlockMinutes => 1
  | .loadPrice => 7
  | .setBilling => 10
  | .setCredit => 3
  | .extendRental => 4
  | .closeFolio => 3
  | .loadSlate => if num p 10 1 = 0 then 13 else 43
  | .setCutMode => 1
  | .poll => 4
  | .settle => 4
  | .clearNotices => 2
  | .setNoticeMask => 2
  | .unknown => 0

/-- The header section's parameters (section 12.2). -/
def headerFieldsOf (p : List Byte) : SlateHeaderFields :=
  { form := num p 11 1, stream := num p 12 2, startMark := num p 14 1, length := num p 15 1, fillCount := num p 16 1,
    offset1 := num p 17 1, kind1 := num p 18 1, offset2 := num p 19 1, kind2 := num p 20 1 }

/-- The command of a LOAD SLATE payload; `none` for an unknown section. -/
def loadSlateOf (t : Target) (p : List Byte) : Option Instr :=
  match num p 10 1 with
  | 0 => some (.loadSlateHeader t (num p 8 1) (num p 9 1) (headerFieldsOf p))
  | k + 1 => if k < 3 then some (.loadSlatePayload t (num p 8 1) (num p 9 1) k (field p 11 40)) else none

/-- The command of a POLL payload; `none` for an unknown form (R188 check 1). -/
def pollOf (t : Target) (p : List Byte) : Option Instr :=
  match num p 8 1 with
  | 0 => some (.pollStatus t)
  | 1 => some (.pollRecords t (num p 9 2) (num p 11 1))
  | 2 => some (.pollLane t (num p 9 2))
  | _ => none

/-- The four PIN bytes: four of 0xFF mean UNSET (R196). -/
def pinOf (p : List Byte) : Option PinDigits :=
  if num p 8 4 = 0xFFFFFFFF then none
  else some { d1 := num p 8 1, d2 := num p 9 1, d3 := num p 10 1, d4 := num p 11 1 }

/-- The command a management payload of kind k carries; `none` where a code leaves no command to hand on, which is
refused RANGE (section 12.2, R196). -/
def instrOf (t : Target) (p : List Byte) : CommandKind → Option Instr
  | .assignRoom => some (.assignRoom t (num p 8 2) (num p 10 1))
  | .restart => some (.restart t)
  | .loadLane =>
    some (.loadLane t (num p 8 1) (num p 9 2) (num p 11 1) (num p 12 1) (optNum p 13) (num p 14 1) (num p 15 1)
      (num p 16 1))
  | .setLaneResponse => some (.setLaneResponse t (num p 8 1) (num p 9 1))
  | .loadKey => some (.loadKey t (num p 8 1) (num p 9 1) (word32 p 10))
  | .clearKey => some (.clearKey t (num p 8 1) (num p 9 1))
  | .setPackages => some (.setPackages t (word32 p 8))
  | .loadChannel =>
    some (.loadChannel t (num p 8 1) (num p 9 1) (num p 10 2) (num p 12 1) (optNum p 13) (num p 14 1) (num p 15 1)
      (num p 16 1))
  | .loadRatingMap => some (.loadRatingMap t ((List.range 16).map fun i => num p (8 + i) 1))
  | .setCeiling => some (.setCeiling t (num p 8 1) (num p 9 1) (optNum p 10))
  | .setPin => some (.setPin t (pinOf p))
  | .setUnlockMinutes => some (.setUnlockMinutes t (num p 8 1))
  | .loadPrice => some (.loadPrice t (num p 8 1) (half p 9) (num p 11 2) (num p 13 2))
  | .setBilling => some (.setBilling t (num p 8 1) (num p 9 2) (num p 11 3) (num p 14 1) (num p 15 3))
  | .setCredit => some (.setCredit t (num p 8 3))
  | .extendRental => some (.extendRental t (num p 8 2) (num p 10 2))
  | .closeFolio => some (.closeFolio t (num p 8 2) (num p 10 1))
  | .loadSlate => loadSlateOf t p
  | .setCutMode => some (.setCutMode t (num p 8 1))
  | .poll => pollOf t p
  | .settle => some (.settle t (num p 8 2) (num p 10 2))
  | .clearNotices => some (.clearNotices t (half p 8))
  | .setNoticeMask => some (.setNoticeMask t (half p 8))
  | .unknown => some (.unknownCommand t)

/-- What the decoder makes of an addressed cell: its command, or the kind a RANGE refusal records (R178). -/
def decodeCell (t : Target) (length : Nat) (p : List Byte) : Instr ⊕ CommandKind :=
  if length = 7 then .inl (.unknownCommand t)
  else
    match commandKindOf (num p 7 1) with
    | none => .inl (.unknownCommand t)
    | some k =>
      if length < 8 + parameterLength p k then .inr k
      else
        match instrOf t p k with
        | some i => .inl i
        | none => .inr k

end Sys2Proof.Machine
end

