-- ==== Sys2Proof/Machine/CellIntake.lean ====
section
/-!
DEFINITION. Cell intake: the search for sync and its loss (R2, R3), the routing of good cells (R4), and the management
decoder's taking of a whole cell (R43, R49, R176, R178).
-/

namespace Sys2Proof.Machine

/-! ## The management decoder -/

/-- The effect of a command a management cell carries. The other rows of the table are not carried in cells. -/
def State.runCommand (i : Instr) (s : State) : State :=
  match i with
  | .assignRoom t room group => s.cmdAssignRoom t room group
  | .restart t => s.cmdRestart t
  | .loadLane t lane stream kind package keySlot first count watch =>
    s.cmdLoadLane t lane stream kind package keySlot first count watch
  | .setLaneResponse t lane response => s.cmdSetLaneResponse t lane response
  | .loadKey t slot phase key => s.cmdLoadKey t slot phase key
  | .clearKey t slot phase => s.cmdClearKey t slot phase
  | .setPackages t set => s.cmdSetPackages t set
  | .loadChannel t entry form number picture sound package cls pay =>
    s.cmdLoadChannel t entry form number picture sound package cls pay
  | .loadRatingMap t classes => s.cmdLoadRatingMap t classes
  | .setCeiling t ceiling scope threshold => s.cmdSetCeiling t ceiling scope threshold
  | .setPin t pin => s.cmdSetPin t pin
  | .setUnlockMinutes t minutes => s.cmdSetUnlockMinutes t minutes
  | .loadPrice t cls price minutes seconds => s.cmdLoadPrice t cls price minutes seconds
  | .setBilling t enabled tax cap day credit => s.cmdSetBilling t enabled tax cap day credit
  | .setCredit t limit => s.cmdSetCredit t limit
  | .extendRental t record minutes => s.cmdExtendRental t record minutes
  | .closeFolio t folio force => s.cmdCloseFolio t folio force
  | .loadSlateHeader t kind position fields => s.cmdLoadSlateHeader t kind position fields
  | .loadSlatePayload t kind position sect bytes => s.cmdLoadSlatePayload t kind position sect bytes
  | .setCutMode t mode => s.cmdSetCutMode t mode
  | .pollStatus t => s.cmdPollStatus t
  | .pollRecords t first count => s.cmdPollRecords t first count
  | .pollLane t lane => s.cmdPollLane t lane
  | .settle t folio through => s.cmdSettle t folio through
  | .clearNotices t flags => s.cmdClearNotices t flags
  | .setNoticeMask t flags => s.cmdSetNoticeMask t flags
  | .unknownCommand t => s.cmdUnknown t
  | .powerOn => s
  | .powerRemoved _ => s
  | .syncSearch _ _ => s
  | .cellReceived _ => s
  | .outputSlot => s
  | .localSecond => s
  | .streamLost _ => s
  | .keyWaitExpiry _ => s
  | .programmeSwap _ => s
  | .programmeEnd _ => s
  | .pinEntryTimeout => s
  | .channelEntryTimeout => s
  | .cutAllowanceEnd => s
  | .refusalExpiry => s
  | .compare _ => s
  | .terminal _ => s
  | .extended _ => s
  | .firstByteExpiry => s
  | .framingError => s
  | .badFrame => s
  | .digit _ _ => s
  | .enter _ => s
  | .chPlus _ => s
  | .chMinus _ => s
  | .buy _ => s
  | .cancel _ => s
  | .lock _ => s
  | .rate _ => s
  | .unassignedKeyCode _ _ => s
  | .timeBeacon _ => s
  | .currentNotice _ => s
  | .nextNotice _ => s
  | .appendCompletes _ => s
  | .advanceCompletes _ => s
  | .advanceRangeCompletes _ => s
  | .writeExtensionCompletes _ => s
  | .writeSettingsCompletes _ => s
  | .eraseSectorCompletes _ => s
  | .closeMarkCompletes _ => s
  | .scan => s
  | .frameSent => s
  | .firstByteReceived _ => s

/-- A management cell taken whole: discarded if it addresses no room or not this one (R176), else decoded (R178). -/
def State.manage (c : Cell) (s : State) : State :=
  if c.length < 7 then s
  else
    match targetOf c.payload with
    | none => s
    | some t =>
      if s.addressed t then
        match decodeCell t c.length c.payload with
        | .inl i => s.runCommand i
        | .inr k => s.refuse k .range
      else s

/-- A time beacon cell (R43). -/
def State.beaconCell (c : Cell) (s : State) : State :=
  if c.length < 4 then s.countDiscard else s.beacon (num c.payload 0 4)

/-- A programme notice cell (R49). -/
def State.noticeCell (c : Cell) (s : State) : State :=
  if c.length < 14 then s.countDiscard else s.notice (num c.payload 2 1) (noticeFieldsOf c.payload)

/-! ## Routing -/

/-- A good cell goes where its stream number says (R4). -/
def State.route (c : Cell) (s : State) : State :=
  if c.stream ≤ 4079 then
    match s.laneOfStream c.stream with
    | some i => s.acceptCell i c
    | none => s
  else if c.mark ≠ .clear then s
  else if c.stream = 4090 then s.manage c
  else if c.stream = 4091 then s.beaconCell c
  else if c.stream = 4092 then s.noticeCell c
  else s

def State.withIntake (i : Intake) (s : State) : State := { s with intake := i }

/-! ## LOCKED -/

/-- Intake after a header in LOCKED (R3). -/
def Intake.checked (k : Intake) (good : Bool) : Intake :=
  if good then { k with damageRun := 0, position := k.position + 128 }
  else if k.damageRun < 2 then
    { k with damageRun := k.damageRun + 1, damageCount := countUp k.damageCount, position := k.position + 128 }
  else
    { k with sync := .search, goodRun := 0, damageRun := 0, damageCount := countUp k.damageCount,
             position := k.position + 1 }

/-- The header at the expected position (R3); there is none in SEARCH. -/
def State.cellReceived (bytes : List Byte) (s : State) : State :=
  if s.intake.sync = .locked then
    match cellOf bytes with
    | some c => (s.withIntake (s.intake.checked true)).route c
    | none => s.withIntake (s.intake.checked false)
  else s

/-! ## SEARCH -/

/-- Where the header examined next stands: the candidate after the bytes skipped, or the next of a run (R2). -/
def Intake.examined (k : Intake) (skipped : Nat) : Nat := if k.goodRun = 0 then k.position + skipped else k.position

/-- The position of the run's candidate header. -/
def Intake.runStart (k : Intake) (skipped : Nat) : Nat := if k.goodRun = 0 then k.position + skipped else k.candidate

/-- Intake after a header examined in SEARCH (R2). -/
def Intake.searched (k : Intake) (skipped : Nat) (good : Bool) : Intake :=
  if good then
    if k.goodRun < 2 then
      { k with goodRun := k.goodRun + 1, candidate := k.runStart skipped, position := k.examined skipped + 128 }
    else { k with sync := .locked, goodRun := 0, damageRun := 0, position := k.examined skipped + 128 }
  else { k with goodRun := 0, position := k.runStart skipped + 1 }

/-- A candidate examined, or the next header of a run; the third good header makes sync LOCKED and its cell is routed
(R2). -/
def State.syncSearch (skipped : Nat) (bytes : List Byte) (s : State) : State :=
  if s.intake.sync = .search then
    match cellOf bytes with
    | some c =>
      let s1 := s.withIntake (s.intake.searched skipped true)
      if s.intake.goodRun < 2 then s1 else s1.route c
    | none => s.withIntake (s.intake.searched skipped false)
  else s

/-! ## The commands of this file -/

def execSyncSearch (skipped : Nat) (bytes : List Byte) (s : State) : Host.Outcome State Fault Refusal :=
  s.act (State.syncSearch skipped bytes)

def execCellReceived (bytes : List Byte) (s : State) : Host.Outcome State Fault Refusal :=
  s.act (State.cellReceived bytes)

end Sys2Proof.Machine
end

