-- ==== Sys2Proof/Machine/Dispatch.lean ====
section
/-!
DEFINITION. The dispatch: one arm for each command of the table, one meaning each.
-/

namespace Sys2Proof.Machine

def exec (i : Instr) (s : State) : Host.Outcome State Fault Refusal :=
  match i with
  | .powerOn => Sys2Proof.Machine.execPowerOn s
  | .powerRemoved programmed => Sys2Proof.Machine.execPowerRemoved programmed s
  | .syncSearch skipped bytes => Sys2Proof.Machine.execSyncSearch skipped bytes s
  | .cellReceived bytes => Sys2Proof.Machine.execCellReceived bytes s
  | .outputSlot => Sys2Proof.Machine.execOutputSlot s
  | .localSecond => Sys2Proof.Machine.execLocalSecond s
  | .streamLost lane => Sys2Proof.Machine.execStreamLost lane s
  | .keyWaitExpiry lane => Sys2Proof.Machine.execKeyWaitExpiry lane s
  | .programmeSwap channel => Sys2Proof.Machine.execProgrammeSwap channel s
  | .programmeEnd channel => Sys2Proof.Machine.execProgrammeEnd channel s
  | .pinEntryTimeout => Sys2Proof.Machine.execPinEntryTimeout s
  | .channelEntryTimeout => Sys2Proof.Machine.execChannelEntryTimeout s
  | .cutAllowanceEnd => Sys2Proof.Machine.execCutAllowanceEnd s
  | .refusalExpiry => Sys2Proof.Machine.execRefusalExpiry s
  | .compare meter => Sys2Proof.Machine.execCompare meter s
  | .terminal meter => Sys2Proof.Machine.execTerminal meter s
  | .extended meter => Sys2Proof.Machine.execExtended meter s
  | .firstByteExpiry => Sys2Proof.Machine.execFirstByteExpiry s
  | .framingError => Sys2Proof.Machine.execFramingError s
  | .badFrame => Sys2Proof.Machine.execBadFrame s
  | .digit d held => Sys2Proof.Machine.execDigit d held s
  | .enter held => Sys2Proof.Machine.execEnter held s
  | .chPlus held => Sys2Proof.Machine.execChPlus held s
  | .chMinus held => Sys2Proof.Machine.execChMinus held s
  | .buy held => Sys2Proof.Machine.execBuy held s
  | .cancel held => Sys2Proof.Machine.execCancel held s
  | .lock held => Sys2Proof.Machine.execLock held s
  | .rate held => Sys2Proof.Machine.execRate held s
  | .unassignedKeyCode code held => Sys2Proof.Machine.execUnassignedKeyCode code held s
  | .timeBeacon time => Sys2Proof.Machine.execTimeBeacon time s
  | .currentNotice fields => Sys2Proof.Machine.execCurrentNotice fields s
  | .nextNotice fields => Sys2Proof.Machine.execNextNotice fields s
  | .assignRoom target room group => Sys2Proof.Machine.execAssignRoom target room group s
  | .restart target => Sys2Proof.Machine.execRestart target s
  | .loadLane target lane stream kind package keySlot firstBlock blockCount watchCode => Sys2Proof.Machine.execLoadLane target lane stream kind package keySlot firstBlock blockCount watchCode s
  | .setLaneResponse target lane response => Sys2Proof.Machine.execSetLaneResponse target lane response s
  | .loadKey target slot phase key => Sys2Proof.Machine.execLoadKey target slot phase key s
  | .clearKey target slot phase => Sys2Proof.Machine.execClearKey target slot phase s
  | .setPackages target set => Sys2Proof.Machine.execSetPackages target set s
  | .loadChannel target entry form number picture sound package defaultClass pay => Sys2Proof.Machine.execLoadChannel target entry form number picture sound package defaultClass pay s
  | .loadRatingMap target classes => Sys2Proof.Machine.execLoadRatingMap target classes s
  | .setCeiling target ceiling scope threshold => Sys2Proof.Machine.execSetCeiling target ceiling scope threshold s
  | .setPin target pin => Sys2Proof.Machine.execSetPin target pin s
  | .setUnlockMinutes target minutes => Sys2Proof.Machine.execSetUnlockMinutes target minutes s
  | .loadPrice target priceClass price rentalMinutes previewSeconds => Sys2Proof.Machine.execLoadPrice target priceClass price rentalMinutes previewSeconds s
  | .setBilling target enabled taxRate dayCap dayStart defaultCredit => Sys2Proof.Machine.execSetBilling target enabled taxRate dayCap dayStart defaultCredit s
  | .setCredit target limit => Sys2Proof.Machine.execSetCredit target limit s
  | .extendRental target record minutes => Sys2Proof.Machine.execExtendRental target record minutes s
  | .closeFolio target folio force => Sys2Proof.Machine.execCloseFolio target folio force s
  | .loadSlateHeader target kind position fields => Sys2Proof.Machine.execLoadSlateHeader target kind position fields s
  | .loadSlatePayload target kind position sect bytes => Sys2Proof.Machine.execLoadSlatePayload target kind position sect bytes s
  | .setCutMode target mode => Sys2Proof.Machine.execSetCutMode target mode s
  | .pollStatus target => Sys2Proof.Machine.execPollStatus target s
  | .pollRecords target first count => Sys2Proof.Machine.execPollRecords target first count s
  | .pollLane target lane => Sys2Proof.Machine.execPollLane target lane s
  | .settle target folio through => Sys2Proof.Machine.execSettle target folio through s
  | .clearNotices target flags => Sys2Proof.Machine.execClearNotices target flags s
  | .setNoticeMask target flags => Sys2Proof.Machine.execSetNoticeMask target flags s
  | .unknownCommand target => Sys2Proof.Machine.execUnknownCommand target s
  | .appendCompletes result => Sys2Proof.Machine.execAppendCompletes result s
  | .advanceCompletes result => Sys2Proof.Machine.execAdvanceCompletes result s
  | .advanceRangeCompletes result => Sys2Proof.Machine.execAdvanceRangeCompletes result s
  | .writeExtensionCompletes result => Sys2Proof.Machine.execWriteExtensionCompletes result s
  | .writeSettingsCompletes result => Sys2Proof.Machine.execWriteSettingsCompletes result s
  | .eraseSectorCompletes result => Sys2Proof.Machine.execEraseSectorCompletes result s
  | .closeMarkCompletes result => Sys2Proof.Machine.execCloseMarkCompletes result s
  | .scan => Sys2Proof.Machine.execScan s
  | .frameSent => Sys2Proof.Machine.execFrameSent s
  | .firstByteReceived byte => Sys2Proof.Machine.execFirstByteReceived byte s

end Sys2Proof.Machine
end

