-- ==== Sys2Proof/Safety.lean ====
section
/-!
DEFINITION. What counts as a safe run, and the words the statements use: a part that is awake, what a re-decision may
change, and the invariants every step keeps.
-/

namespace Sys2Proof

open Sys2Proof.Machine

/-! ## The state a command meets -/

/-- Every table has the number of entries the manual gives it. -/
abbrev Sized (s : State) : Prop :=
  s.lanes.length = 24 ∧ s.keys.length = 16 ∧ s.notices.entries.length = 48 ∧ s.lock.map.length = 16
    ∧ s.meters.length = 8 ∧ s.buying.prices.length = 16 ∧ s.composer.channels.length = 48
    ∧ s.composer.slates.length = 36 ∧ s.store.sectors.length = 4 ∧ ∀ sec ∈ s.store.sectors, sec.slots.length = 64

/-- The part has power, no event of the last local second waits to be taken (log entry 7), and nothing arrives together
with a RESTART (log entry 44). -/
abbrev Awake (s : State) : Prop := s.powered = true ∧ s.due = [] ∧ s.keypad.restarted = false

/-- A management command of kind k that addresses this room with a target the kind accepts (R176, R178). -/
abbrev Meant (s : State) (t : Target) (k : CommandKind) : Prop :=
  Awake s ∧ s.addressed t = true ∧ targetAccepted k t = true

/-- The events of a local second that have commands of their own. -/
def Instr.isTickEvent : Instr → Bool
  | .streamLost _ => true
  | .keyWaitExpiry _ => true
  | .programmeSwap _ => true
  | .programmeEnd _ => true
  | .pinEntryTimeout => true
  | .channelEntryTimeout => true
  | .cutAllowanceEnd => true
  | .refusalExpiry => true
  | .compare _ => true
  | .terminal _ => true
  | .extended _ => true
  | _ => false

/-- The command of an event of a local second. -/
def Machine.TickEvent.command : TickEvent → Instr
  | .streamLost i => .streamLost i
  | .keyWaitExpiry i => .keyWaitExpiry i
  | .programmeSwap n => .programmeSwap n
  | .programmeEnd n => .programmeEnd n
  | .pinEntryTimeout => .pinEntryTimeout
  | .channelEntryTimeout => .channelEntryTimeout
  | .cutAllowanceEnd => .cutAllowanceEnd
  | .refusalExpiry => .refusalExpiry
  | .compare i => .compare i
  | .terminal i => .terminal i
  | .extended i => .extended i

/-- The commands that apply or remove power. -/
def Instr.isPower : Instr → Bool
  | .powerOn => true
  | .powerRemoved _ => true
  | _ => false

/-- The commands that are good key frames, whole (R145, R146). -/
def Instr.isKeyFrame : Instr → Bool
  | .digit _ _ => true
  | .enter _ => true
  | .chPlus _ => true
  | .chMinus _ => true
  | .buy _ => true
  | .cancel _ => true
  | .lock _ => true
  | .rate _ => true
  | .unassignedKeyCode _ _ => true
  | _ => false

/-- The target and kind of the management commands. -/
def Instr.managed : Instr → Option (Target × CommandKind)
  | .assignRoom t _ _ => some (t, .assignRoom)
  | .restart t => some (t, .restart)
  | .loadLane t _ _ _ _ _ _ _ _ => some (t, .loadLane)
  | .setLaneResponse t _ _ => some (t, .setLaneResponse)
  | .loadKey t _ _ _ => some (t, .loadKey)
  | .clearKey t _ _ => some (t, .clearKey)
  | .setPackages t _ => some (t, .setPackages)
  | .loadChannel t _ _ _ _ _ _ _ _ => some (t, .loadChannel)
  | .loadRatingMap t _ => some (t, .loadRatingMap)
  | .setCeiling t _ _ _ => some (t, .setCeiling)
  | .setPin t _ => some (t, .setPin)
  | .setUnlockMinutes t _ => some (t, .setUnlockMinutes)
  | .loadPrice t _ _ _ _ => some (t, .loadPrice)
  | .setBilling t _ _ _ _ _ => some (t, .setBilling)
  | .setCredit t _ => some (t, .setCredit)
  | .extendRental t _ _ => some (t, .extendRental)
  | .closeFolio t _ _ => some (t, .closeFolio)
  | .loadSlateHeader t _ _ _ => some (t, .loadSlate)
  | .loadSlatePayload t _ _ _ _ => some (t, .loadSlate)
  | .setCutMode t _ => some (t, .setCutMode)
  | .pollStatus t => some (t, .poll)
  | .pollRecords t _ _ => some (t, .poll)
  | .pollLane t _ => some (t, .poll)
  | .settle t _ _ => some (t, .settle)
  | .clearNotices t _ => some (t, .clearNotices)
  | .setNoticeMask t _ => some (t, .setNoticeMask)
  | .unknownCommand t => some (t, .unknown)
  | _ => none

/-! ## Lanes that cannot stand beside each other -/

/-- Another configured lane has a pool block of the area, or the stream number (R7 checks 5 and 6). -/
def AreaClash (s : State) (lane : Nat) (c : LaneConfig) : Prop :=
  ∃ j d, j ≠ lane ∧ (s.lane j).response ≠ .idle ∧ (s.lane j).config = some d
    ∧ (d.stream = c.stream
        ∨ ∃ b, c.firstBlock ≤ b ∧ b < c.firstBlock + c.blockCount ∧ d.firstBlock ≤ b ∧ b < d.firstBlock + d.blockCount)

/-- The area would leave the pool, clashes with another configured lane, or a channel entry names the lane in the place
of the other kind (R7 checks 4 to 7). -/
def LaneClash (s : State) (lane : Nat) (c : LaneConfig) : Prop :=
  96 < c.firstBlock + c.blockCount ∨ AreaClash s lane c
    ∨ ∃ e, some e ∈ s.composer.channels
        ∧ (c.kind = .sound ∧ e.picture = lane ∨ c.kind = .picture ∧ e.sound = some lane)

/-! ## What a re-decision may change -/

/-- Cell c is the next that the lane offers: its oldest, not held, on a lane in PASS (R23, R32). -/
abbrev NextOffered (l : Lane) (c : AreaCell) : Prop := l.response = .pass ∧ l.area.head? = some c ∧ c.held = false

/-- The cell the arbiter would take next for the channel is a picture cell with its start mark set (R165, R167). -/
def StartMarkNext (s : State) (e : ChannelEntry) : Prop :=
  ∃ c, NextOffered (s.lane e.picture) c ∧ c.cell.start = true
    ∧ ∀ i d, e.sound = some i → NextOffered (s.lane i) d → c.order ≤ d.order

/-- The output state is one of SLATE. -/
abbrev OnSlate (s : State) : Prop := ∃ k last seq, s.composer.output = .slate k last seq

/-- The output state of t after s has taken the view decision v for channel e (R166, R167, R169): a decision that
stays as it was changes nothing; SHOW ends a cut and leaves a slate for WAITING_START; a slate starts at once from
WAITING_START, another slate and an IMMEDIATE cut, and a BOUNDARY cut of SHOWING is CUTTING, until the arbiter's next
cell is a picture cell with its start mark. -/
structure OutputFollows (s t : State) (e : ChannelEntry) (v : View) : Prop where
  kept : s.composer.decision = some v → v = .show ∨ (∀ start, s.composer.output ≠ .cutting start) →
    t.composer.output = s.composer.output
  shown : v = .show → s.composer.decision ≠ some v → t.composer.output =
    match s.composer.output with
    | .cutting _ => .showing
    | .slate _ _ _ => .waitingStart
    | o => o
  slated : ∀ k, v = .slate k → s.composer.decision ≠ some v →
    (s.composer.output = .showing → s.composer.cutMode = .immediate) →
    (∀ start, s.composer.output ≠ .cutting start) → t.composer.output = .slate k none 0
  cut : ∀ k, v = .slate k → s.composer.decision ≠ some v → s.composer.output = .showing →
    s.composer.cutMode = .boundary →
    (StartMarkNext s e → t.composer.output = .slate k none 0)
      ∧ (¬ StartMarkNext s e → t.composer.output = .cutting s.second)
  cutting : ∀ k start, v = .slate k → s.composer.output = .cutting start →
    (StartMarkNext s e → t.composer.output = .slate k none 0)
      ∧ (¬ StartMarkNext s e → t.composer.output = .cutting start)

/-- What is left of an area whose clear cells ahead of the first held one have been discarded: all of it on a lane that
does not PASS (R168). -/
def Machine.Lane.undiscarded (l : Lane) : List AreaCell :=
  if l.response = .pass then l.area.dropWhile fun c => !c.held else l.area

/-- PIN entry after the view decision v has been taken while channel `tuned` is tuned: an UNLOCK collection ends
unless its channel is tuned and the decision is the PIN slate (R69). -/
def pinEntryAfter (entry : PinEntry) (tuned : Option Nat) (v : View) : PinEntry :=
  match entry with
  | .unlock n ds k => if tuned = some n ∧ v = .slate .pin then .unlock n ds k else .idle
  | x => x

/-- t is s after the view decision has been taken afresh and the output has followed it (R163, R166 to R169): the
decision is the one R162 gives for the tuned channel, and the output state follows it; a preview has begun exactly if
the decision asked for it (R102, R103); an UNLOCK collection may have ended; under a slate the tuned lanes' offered
cells have been discarded. Nothing else has changed. -/
structure Redecided (s t : State) : Prop where
  powered : t.powered = s.powered
  second : t.second = s.second
  intake : t.intake = s.intake
  keys : t.keys = s.keys
  packages : t.packages = s.packages
  notices : t.notices = s.notices
  keypad : t.keypad = s.keypad
  management : t.management = s.management
  reply : t.reply = s.reply
  due : t.due = s.due
  pending : t.pending = s.pending
  untuned : s.tunedEntry = none → t = s
  lock : { t.lock with entry := s.lock.entry } = s.lock
  entry : ∀ e, s.tunedEntry = some e →
    t.lock.entry = pinEntryAfter s.lock.entry s.composer.tuned (s.viewDecision e).1
  composer : { t.composer with decision := s.composer.decision, output := s.composer.output } = s.composer
  decision : ∀ e, s.tunedEntry = some e → t.composer.decision = some (s.viewDecision e).1
  output : ∀ e, s.tunedEntry = some e → OutputFollows s t e (s.viewDecision e).1
  lanes : ∀ i, { t.lane i with area := (s.lane i).area } = s.lane i
  discarded : ∀ i, s.tunedLane i = true → OnSlate t → (t.lane i).area = (s.lane i).undiscarded
  undisturbed : ∀ i, s.tunedLane i = false ∨ ¬ OnSlate t → t.lane i = s.lane i
  begins : ∀ e, s.tunedEntry = some e → (s.viewDecision e).2 = true →
    ∃ p, s.current e.number = some p ∧ s.canPreview p = true ∧ t.store = (s.beginPreview e.number p).store
      ∧ t.meters = (s.beginPreview e.number p).meters ∧ t.buying = (s.beginPreview e.number p).buying
  unasked : ∀ e, s.tunedEntry = some e → (s.viewDecision e).2 = false →
    t.store = s.store ∧ t.meters = s.meters ∧ t.buying = s.buying

/-! ## What a key and a tune do -/

/-- s after the part of a key frame that every frame of this code brings (R145 to R147): both last key seconds are the
current count, the last key is the code, no first byte is pending; the channel entry holds these digits. -/
def Machine.State.keyed (s : State) (code : Nat) (digits : List Nat) : State :=
  { s with
    keypad := { digits := digits, lastKeySecond := some s.second, lastKey := some code, errors := s.keypad.errors,
                firstByte := none, restarted := false }
    lock := { s.lock with entry := s.lock.entry.touched s.second } }

/-- The command of a key code (R146). -/
def keyCommand (code : Nat) (held : Bool) : Instr :=
  match code with
  | 10 => .enter held
  | 11 => .chPlus held
  | 12 => .chMinus held
  | 13 => .buy held
  | 14 => .cancel held
  | 15 => .lock held
  | 16 => .rate held
  | n => if h : n < 10 then .digit ⟨n, h⟩ held else .unassignedKeyCode n held

/-- t is s after a tune to channel number n, whose entry is e (R161, R24, R37, R69, R111): lanes the old channel names
and the new one does not have ceased to be tuned, the refusal is gone, the decision is the one R162 gives, and the
output is WAITING_START for SHOW and the slate, from its beginning, for a slate, under which the new lanes' offered
cells are discarded (R168). A preview has begun exactly if the decision asked for it (R102, R103). -/
structure TunedTo (s t : State) (n : Nat) (e : ChannelEntry) : Prop where
  tuned : t.composer.tuned = some n
  decision : t.composer.decision = some (s.clearRefusal.viewDecision e).1
  output : t.composer.output =
    match (s.clearRefusal.viewDecision e).1 with
    | .show => .waitingStart
    | .slate k => .slate k none 0
  composer : { t.composer with tuned := s.composer.tuned, decision := s.composer.decision,
                               output := s.composer.output } = s.composer
  left : ∀ i, s.tunedLane i = true → e.names i = false →
    t.lane i = { s.lane i with
      area := []
      keyStatus := match (s.lane i).keyStatus with
        | .keywait _ _ _ => .keyless
        | k => k }
  named : ∀ i, e.names i = true → { t.lane i with area := (s.lane i).area } = s.lane i
    ∧ (t.lane i).area =
      match (s.clearRefusal.viewDecision e).1 with
      | .show => (s.lane i).area
      | .slate _ => (s.lane i).undiscarded
  otherLanes : ∀ i, s.tunedLane i = false → e.names i = false → t.lane i = s.lane i
  refusal : t.buying.refusal = none
  begins : (s.clearRefusal.viewDecision e).2 = true →
    ∃ p, s.current e.number = some p ∧ s.canPreview p = true ∧ t.store = (s.beginPreview e.number p).store
      ∧ t.meters = (s.beginPreview e.number p).meters
      ∧ t.buying = { (s.beginPreview e.number p).buying with refusal := none }
  unasked : (s.clearRefusal.viewDecision e).2 = false →
    t.store = s.store ∧ t.meters = s.meters ∧ t.buying = { s.buying with refusal := none }
  entry : t.lock.entry = pinEntryAfter s.lock.entry (some n) (s.clearRefusal.viewDecision e).1
  lock : { t.lock with entry := s.lock.entry } = s.lock
  powered : t.powered = s.powered
  second : t.second = s.second
  intake : t.intake = s.intake
  keys : t.keys = s.keys
  packages : t.packages = s.packages
  notices : t.notices = s.notices
  keypad : t.keypad = s.keypad
  management : t.management = s.management
  reply : t.reply = s.reply
  due : t.due = s.due
  pending : t.pending = s.pending

/-- The keypad unit names channel n (R151, R153): the tuned channel and a number not in the table change nothing,
another is tuned. -/
def Selects (s t : State) (n : Nat) : Prop :=
  if s.composer.tuned = some n then t = s
  else
    match s.entry n with
    | none => t = s
    | some e => TunedTo s t n e

/-! ## Layouts -/

/-- The bytes carry these numbers in order, each a width and a value, most significant byte first (R196). -/
def Layout (bytes : List Byte) (rows : List (Nat × Nat)) : Prop :=
  bytes.length = (rows.map (·.1)).sum ∧ ∀ before width value after, rows = before ++ (width, value) :: after →
    num bytes (before.map (·.1)).sum width = value % 256 ^ width

/-! ## Store operations -/

/-- The command that brings the completion of an operation of this kind. -/
def completionCommand (k : OpKind) (result : OpResult) : Instr :=
  match k with
  | .append => .appendCompletes result
  | .advance => .advanceCompletes result
  | .advanceRange => .advanceRangeCompletes result
  | .writeExtension => .writeExtensionCompletes result
  | .writeSettings => .writeSettingsCompletes result
  | .eraseSector => .eraseSectorCompletes result
  | .closeMark => .closeMarkCompletes result

/-- The record an operation commits: an APPEND in COMMITTED or an ADVANCE to COMMITTED (R112, R113). -/
def Machine.StoreOp.commitsRecord : StoreOp → Option Nat
  | .append r => r.commit.map fun _ => r.number
  | .advance n (.committed _) => some n
  | _ => none

/-- Whether the operation writes an extension of this record (R120). -/
def Machine.StoreOp.extends (n : Nat) : StoreOp → Bool
  | .writeExtension m _ => m == n
  | _ => false

/-- An operation as it joins the queue. -/
abbrev Machine.StoreOp.queued (op : StoreOp) : QueuedOp := { op := op, retried := false }

/-- The ADVANCE to PREVIEWED of a record, as it joins the queue. -/
abbrev advancing (n : Nat) : QueuedOp := (StoreOp.advance n .previewed).queued

/-- The operations that erase these sectors and then write the settings of the next folio, as they stand once the first
of them has started: the write has taken its values only where it is the first (R136, R140, R142). -/
def erasing (sectors : List Nat) (folio : Nat) (v : Standing) : List QueuedOp :=
  sectors.map (fun k => (StoreOp.eraseSector k).queued) ++
    [(StoreOp.writeSettings true
      (if sectors = [] then some (if folio = 65535 then 1 else folio + 1, v) else none)).queued]

/-- The close's own operations have joined an empty queue of store f, v being the standing settings: from the close mark
if that is erased, else from the first sector that is not wholly erased, or the ending write if all are (R140). -/
structure CloseBegun (f : FolioStore) (v : Standing) (g : FolioStore) : Prop where
  page : g.page = f.page
  unmarked : f.page.closeMark = false → g.sectors = f.sectors ∧ g.queue =
    [StoreOp.closeMark, .eraseSector 0, .eraseSector 1, .eraseSector 2, .eraseSector 3, .writeSettings true none].map
      StoreOp.queued
  marked : f.page.closeMark = true →
    let erased := [0, 1, 2, 3].dropWhile fun k => (f.sector k).whollyErased
    g.queue = erasing erased f.folio v ∧ (erased = [] → g.sectors = f.sectors)
      ∧ ∀ k more, erased = k :: more → g.sectors = f.sectors.set k Sector.voided

/-- A field whose programming is step i, after k steps. -/
def fieldAfter {α : Type} (k i : Nat) (old : Option α) (v : α) : Option α := if i ≤ k then some v else old

/-- A field that an operation can program to v: erased, or written by an attempt of the same operation (R124). -/
abbrev Fits (old : Option Nat) (v : Nat) : Prop := old = none ∨ old = some v

/-- Of the stored content, the slot of record n alone has changed, to `new`. -/
abbrev SlotAlone (f g : FolioStore) (n : Nat) (new : Slot) : Prop :=
  g.page = f.page ∧ g.slot n = new ∧ ∀ m, m ≠ n → g.slot m = f.slot m

/-- The slots of these records alone have changed, each as `mark` says. -/
abbrev SlotsMarked (f g : FolioStore) (ns : List Nat) (mark : Slot → Slot) : Prop :=
  g.page = f.page ∧ ∀ n, g.slot n = if n ∈ ns then mark (f.slot n) else f.slot n

/-- The stored content has not changed. -/
abbrev ContentSame (f g : FolioStore) : Prop := g.sectors = f.sectors ∧ g.page = f.page

/-- The fields of a commit, the first of them programmed by step i, after k steps (R131). -/
def Machine.Slot.paying (sl : Slot) (k i : Nat) (c : CommitFields) : Slot :=
  { sl with price := fieldAfter k i sl.price c.price, tax := fieldAfter k (i + 1) sl.tax c.tax,
            charge := fieldAfter k (i + 2) sl.charge c.charge,
            commitTime := fieldAfter k (i + 3) sl.commitTime c.time }

/-- The fields of a commit fit a slot. -/
abbrev FitsCommit (sl : Slot) (c : CommitFields) : Prop :=
  Fits sl.price c.price ∧ Fits sl.tax c.tax ∧ Fits sl.charge c.charge ∧ Fits sl.commitTime c.time

/-- An APPEND after k steps: its record's fields in order, then a commit's, and the state field last, before which the
slot is spoiled (R125, R131, R135). -/
def AppendLeaves (f g : FolioStore) (r : NewRecord) (k : Nat) : Prop :=
  ∀ sl, f.slot r.number = sl → 1 ≤ r.number → r.number ≤ 256 → Fits sl.folio r.folio → Fits sl.number r.number →
    Fits sl.programme r.programme → Fits sl.channel r.channel → Fits sl.priceClass r.priceClass →
    Fits sl.minutes r.minutes →
    let opening : Slot :=
      { sl with folio := fieldAfter k 1 sl.folio r.folio, number := fieldAfter k 2 sl.number r.number,
                programme := fieldAfter k 3 sl.programme r.programme, channel := fieldAfter k 4 sl.channel r.channel,
                priceClass := fieldAfter k 5 sl.priceClass r.priceClass,
                minutes := fieldAfter k 6 sl.minutes r.minutes }
    (r.commit = none → SlotAlone f g r.number { opening with opened := sl.opened || decide (7 ≤ k) })
    ∧ ∀ c, r.commit = some c → FitsCommit sl c → SlotAlone f g r.number
        { opening.paying k 7 c with opened := sl.opened || decide (11 ≤ k),
                                    committed := sl.committed || decide (11 ≤ k) }

/-- An ADVANCE after k steps, its mark last; one whose record is not OPENED programs nothing (R131, R135). -/
def AdvanceLeaves (f g : FolioStore) (n : Nat) (t : AdvanceTarget) (k : Nat) : Prop :=
  ∀ sl, f.slot n = sl →
    let isOpen := sl.opened = true ∧ sl.previewed = false ∧ sl.committed = false
    (¬ isOpen → ContentSame f g)
    ∧ (isOpen → t = .previewed →
        SlotAlone f g n { sl with charge := fieldAfter k 1 sl.charge 0, previewed := decide (2 ≤ k) })
    ∧ ∀ c, isOpen → t = .committed c → FitsCommit sl c →
        SlotAlone f g n { sl.paying k 1 c with committed := decide (5 ≤ k) }

/-- An ADVANCE RANGE after k steps: the first k records of its set that are in a state it advances from (R132, R135). -/
def RangeLeaves (f g : FolioStore) (t : RangeTarget) (ns : List Nat) (k : Nat) : Prop :=
  let found (states : List RecordState) : List Nat :=
    (ns.filter fun n => (f.slot n).opened && (f.slot n).folio == some f.folio && states.contains (f.slot n).state).take k
  (t = .reported → SlotsMarked f g (found [.previewed, .committed]) fun sl => { sl with reported := true })
  ∧ (t = .settled → SlotsMarked f g (found [.reported]) fun sl => { sl with settled := true })

/-- A WRITE EXTENSION after k steps (R133, R135). -/
def ExtensionLeaves (f g : FolioStore) (n minutes k : Nat) : Prop :=
  ∀ sl, f.slot n = sl →
    let free := sl.opened = true ∧ sl.folio = some f.folio ∧ sl.committed = true ∧ sl.extension = none
    (free → SlotAlone f g n { sl with extension := fieldAfter k 1 none minutes }) ∧ (¬ free → ContentSame f g)

/-- A WRITE SETTINGS after k steps: the page erased, then the folio number, the settings and the room assignment, and
the valid mark last (R135, R136). -/
def SettingsLeaves (f g : FolioStore) (folio : Nat) (v : Standing) (k : Nat) : Prop :=
  g.sectors = f.sectors ∧ (k = 0 → g.page = f.page) ∧ (1 ≤ k → g.page =
    { folio := fieldAfter k 2 none folio, f := fieldAfter k 3 none v.f, r := fieldAfter k 4 none v.r,
      unlockMinutes := fieldAfter k 5 none v.unlockMinutes, billing := fieldAfter k 6 none v.billing,
      taxRate := fieldAfter k 7 none v.taxRate, dayCap := fieldAfter k 8 none v.dayCap,
      dayStart := fieldAfter k 9 none v.dayStart, defaultCredit := fieldAfter k 10 none v.defaultCredit,
      cutMode := fieldAfter k 11 none v.cutMode, room := fieldAfter k 12 none v.room,
      group := fieldAfter k 13 none v.group, validMark := decide (14 ≤ k), closeMark := false })

/-- What an operation cut off or failing after k programming steps leaves of the content f that it found, one field a
step (R124, R135). An erase cut off leaves its sector as its start left it (R142). -/
def AttemptLeaves (f g : FolioStore) (op : StoreOp) (k : Nat) : Prop :=
  match op with
  | .append r => AppendLeaves f g r k
  | .advance n t => AdvanceLeaves f g n t k
  | .advanceRange t ns => RangeLeaves f g t ns k
  | .writeExtension n m => ExtensionLeaves f g n m k
  | .writeSettings _ none => ContentSame f g
  | .writeSettings _ (some (n, v)) => SettingsLeaves f g n v k
  | .eraseSector _ => ContentSame f g
  | .closeMark => g.sectors = f.sectors ∧ g.page = { f.page with closeMark := f.page.closeMark || decide (1 ≤ k) }

/-- An ADVANCE RANGE that finds nothing to program: no record of the current folio in its set is in a state it advances
from (R132). -/
def IdleRange (f : FolioStore) (op : StoreOp) : Prop :=
  ∃ t ns, op = .advanceRange t ns ∧ ∀ n ∈ ns, (f.slot n).opened = true → (f.slot n).folio = some f.folio →
    match t with
    | .reported => (f.slot n).state ≠ .previewed ∧ (f.slot n).state ≠ .committed
    | .settled => (f.slot n).state ≠ .reported

/-- The ADVANCE to PREVIEWED of record n has been asked for: a store that does not accept it leaves the record OPENED, a
full queue puts it on the marking list, else it joins the queue (R109, R130). -/
structure MarkAsked (s u : State) (n : Nat) : Prop where
  refused : s.store.fault = true ∨ s.store.closing = true ∨ s.store.awaitingScan = true →
    u.store = s.store ∧ u.buying.marking = s.buying.marking
  listed : s.store.fault = false → s.store.closing = false → s.store.awaitingScan = false →
    8 ≤ s.store.queue.length → u.store = s.store ∧ u.buying.marking = s.buying.marking ++ [n]
  queued : s.store.fault = false → s.store.closing = false → s.store.awaitingScan = false →
    s.store.queue.length < 8 → u.store = { s.store with queue := s.store.queue ++ [advancing n] }
      ∧ u.buying.marking = s.buying.marking

/-- What a change of programme on channel n does to the purchase unit (R53, R108, R111): each RUNNING preview bound to
the channel leaves the preview list and a refusal on the channel is removed; where one alone was bound to it, its
meter is released and the ADVANCE of its record to PREVIEWED asked for. -/
structure ProgrammeChanged (s u : State) (n : Nat) : Prop where
  buying : { u.buying with previews := s.buying.previews, marking := s.buying.marking,
                           refusal := s.buying.refusal } = s.buying
  previews : u.buying.previews = s.buying.previews.filter fun q =>
    !s.buying.previews.any fun p => p.channel == n && p.state == .running && p.programme == q.programme
  refusal : u.buying.refusal = s.buying.refusal.filter fun r => r.channel != n
  unbound : (∀ p ∈ s.buying.previews, p.channel = n → p.state = .buying) →
    u.meters = s.meters ∧ u.store = s.store ∧ u.buying.marking = s.buying.marking
  bound : ∀ as p bs, s.buying.previews = as ++ p :: bs → p.channel = n → p.state = .running →
    (∀ q ∈ as ++ bs, q.channel = n → q.state = .buying) →
    u.meters = (if (s.meter p.meter).programme = some p.programme ∨ (s.meter p.meter).hold = some p.programme
        then s.meters.set p.meter Meter.free else s.meters)
      ∧ MarkAsked s u p.record

/-! ## What a scan finds -/

/-- u is what the scan of s leaves before the view decision is taken (R125, R138, R141, R142). -/
structure ScanFound (s u : State) : Prop where
  fault : u.store.fault = false
  scanned : u.store.awaitingScan = false
  pageFolio : ∀ n, s.store.page.folio = some n → u.store.folio = n
  lowestFolio : s.store.page.folio = none → ∀ as x bs, s.store.slots = as ++ x :: bs → x.1.opened = true →
    (∀ y ∈ as, y.1.opened = false) → ∀ n, x.1.folio = some n → u.store.folio = n
  firstFolio : s.store.page.folio = none → (∀ p ∈ s.store.slots, p.1.opened = false) → u.store.folio = 1
  noStanding : s.store.page.validMark = false → u.standing = Standing.initial
  standing : u.standing = s.store.page.standing
  stay : u.lock.stayF = u.lock.standingF ∧ u.lock.g = u.lock.standingF
  credit : u.buying.credit = u.buying.defaultCredit
  page : u.store.page = s.store.page
  closing : u.store.closing = s.store.page.closeMark
  resumed : s.store.page.closeMark = true → u.store.resumed = true ∧ u.store.records = [] ∧ u.store.folioTotal = 0
    ∧ u.dayCharges = 0 ∧ u.store.nextRecord = 1 ∧ u.store.scanList = []
    ∧ let left := [0, 1, 2, 3].filter fun k => !(s.store.sector k).whollyErased
      u.store.queue = erasing left u.store.folio u.standing ∧ (left = [] → u.store.sectors = s.store.sectors)
        ∧ ∀ k more, left = k :: more → u.store.sectors = s.store.sectors.set k Sector.voided
  content : s.store.page.closeMark = false → u.store.sectors = s.store.sectors ∧ u.store.resumed = false
  next : s.store.page.closeMark = false →
    (∀ p ∈ s.store.slots, p.1 ≠ Slot.erased → p.2 < u.store.nextRecord) ∧
      (u.store.nextRecord = 1 ∨ ∃ p ∈ s.store.slots, p.1 ≠ Slot.erased ∧ p.2 + 1 = u.store.nextRecord)
  opened : s.store.page.closeMark = false → ∃ ns : List Nat, ns.Pairwise (· < ·)
    ∧ (∀ n, n ∈ ns ↔ ∃ sl, (sl, n) ∈ s.store.slots ∧ sl.opened = true ∧ sl.folio = some u.store.folio
        ∧ sl.state = .opened)
    ∧ (s.store.page.validMark = true → u.store.queue = (ns.take 8).map advancing ∧ u.store.scanList = ns.drop 8)
    ∧ (s.store.page.validMark = false → u.store.scanList = ns.drop 7 ∧ u.store.queue = (ns.take 7).map advancing
        ++ [(StoreOp.writeSettings false (if ns = [] then some (u.store.folio, u.standing) else none)).queued])

/-! ## Invariants -/

/-- The attention line is asserted exactly while a flag is both set and in the mask (R195). -/
abbrev AttentionFollows (s : State) : Prop := s.reply.attention = attentionOf s.reply.flags s.reply.mask

/-- The guest ceiling never exceeds the front-desk ceiling in force (R61). -/
abbrev CeilingHeld (s : State) : Prop := s.lock.g ≤ s.lock.stayF

/-- A lane's area holds no more cells than its block count, which is 1..16, and a lane never loaded holds none (R7, R21,
R22). -/
def Lane.bounded (l : Lane) : Prop :=
  match l.config with
  | none => l.area = []
  | some c => 1 ≤ c.blockCount ∧ c.blockCount ≤ 16 ∧ l.area.length ≤ c.blockCount

/-- Every lane's area is bounded. -/
abbrev AreasBounded (s : State) : Prop := ∀ l ∈ s.lanes, Lane.bounded l

/-- The store's operation queue holds at most 8 operations (R129). -/
abbrev QueueBounded (s : State) : Prop := s.store.queue.length ≤ 8

/-- A meter that is FREE has count 0 and every field but a commit hold absent (R78). -/
abbrev freeMeterBlank (m : Meter) : Prop := m.use = .free → { m with hold := none } = Meter.free

/-- Meter 0 serves the rating lock alone and carries no commit hold; meters 1..7 serve purchases alone; a FREE meter is
blank (R78, R79). -/
abbrev MetersServe (s : State) : Prop :=
  (∀ m ∈ s.meters, freeMeterBlank m)
    ∧ ((s.meter 0).use = .free ∨ (s.meter 0).use = .unlock ∨ (s.meter 0).use = .lockout)
    ∧ (s.meter 0).hold = none
    ∧ ∀ m ∈ s.meters.drop 1, m.use = .free ∨ m.use = .preview ∨ m.use = .rental

/-- Every mark of a record's state that is programmed before is programmed after (R126). -/
abbrev MarksKept (before after : Slot) : Prop :=
  (before.opened = true → after.opened = true) ∧ (before.previewed = true → after.previewed = true)
    ∧ (before.committed = true → after.committed = true) ∧ (before.reported = true → after.reported = true)
    ∧ (before.settled = true → after.settled = true)

/-- No sector is being erased or about to be: no close has programmed its mark and no erase stands in the queue. -/
abbrev NoErase (s : State) : Prop :=
  s.store.page.closeMark = false ∧ ∀ q ∈ s.store.queue, q.op.kind ≠ .eraseSector

/-- A step that does not stop the block. -/
abbrev Runs (o : Host.Outcome State Fault Refusal) : Prop := ∃ t, o = .next t

end Sys2Proof
end

