-- ==== Sys2Proof/Certificates/Slice0/Obligations.lean ====
section
/-!
DEFINITION. The statements for the provers, from the manual's numbered rules. A statement whose docstring names a log
entry rests on the model's choice there.
-/

open Sys2Proof Sys2Proof.Machine

/-! ## How the block is stepped -/

/-- The block takes the command at the front of its queue, on a state that holds the queue's rest; on an empty queue it
idles (log entry 3). -/
def Obligations.step_takes_the_front_command : Prop :=
  (∀ (c : Instr) (rest : List Instr) (s : State), s.pending = c :: rest → step s = exec c { s with pending := rest })
    ∧ ∀ s : State, s.pending = [] → step s = .next s

/-- No command stops the block: each has an effect or, where it does not arise, none (log entry 4); a part without power
takes nothing but POWER_ON (log entry 10). -/
def Obligations.no_command_stops_the_block : Prop :=
  ∀ (c : Instr) (s : State), Runs (exec c s) ∧ (s.powered = false → c ≠ .powerOn → exec c s = .next s)

/-- What a local second left due comes ahead of the next other command: each event in the order listed, acting as its
own command does; an event that no local second left due does not arise (log entries 4 and 7). That command arrives
together with a RESTART just taken only if it is a key frame (log entry 44). -/
def Obligations.events_of_a_tick_come_first : Prop :=
  ∀ (c : Instr) (s : State), s.powered = true →
    s.catchUp = s.due.foldl State.perform { s with due := [], keypad := { s.keypad with restarted := false } }
      ∧ (∀ e ∈ s.due, exec e.command s = .next (State.perform { s with due := s.due.erase e } e))
      ∧ (∀ e, e ∉ s.due → exec e.command s = .next s)
      ∧ (c.isTickEvent = true → ∃ e : TickEvent, c = e.command)
      ∧ Awake s.catchUp
      ∧ (c.isTickEvent = false → c.isPower = false → c.isKeyFrame = false ∨ s.keypad.restarted = false →
          exec c s = exec c s.catchUp)

/-! ## Power, the scan and RESTART -/

/-- Power-on: every block takes its power-on values, POWER_ON alone is set, and the standing settings are the page's.
That it does so for a part that has power is the model's choice (log entry 12), and so is that an event of the last
local second not yet taken is lost (log entry 36). -/
def Obligations.power_on_values : Prop :=
  ∀ s : State, ∃ t, exec .powerOn s = .next t ∧ t.powered = true ∧ t.second = 0
    ∧ t.intake.sync = .search ∧ t.intake.goodRun = 0 ∧ t.intake.damageRun = 0 ∧ t.intake.damageCount = 0
    ∧ t.lanes = List.replicate 24 Lane.initial ∧ t.keys = List.replicate 16 { a := none, b := none } ∧ t.packages = 0
    ∧ t.notices.hotelTime = none ∧ t.notices.restorationPending = true ∧ t.notices.discardCount = 0
    ∧ t.notices.entries = List.replicate 48 { current := none, next := none }
    ∧ t.lock.map = List.replicate 16 7 ∧ t.lock.pin = none ∧ t.lock.entry = .idle ∧ t.lock.wrongCount = 0
    ∧ t.standing = s.store.page.standing ∧ t.lock.stayF = t.lock.standingF ∧ t.lock.g = t.lock.stayF
    ∧ t.meters = List.replicate 8 Meter.free
    ∧ t.buying.prices = List.replicate 16 { price := 0, rentalMinutes := 1, previewSeconds := 0 }
    ∧ t.buying.credit = t.buying.defaultCredit ∧ t.buying.previews = [] ∧ t.buying.commits = []
    ∧ t.buying.rentals = [] ∧ t.buying.marking = [] ∧ t.buying.refusal = none
    ∧ t.keypad = { digits := [], lastKeySecond := none, lastKey := none, errors := 0, firstByte := none,
                   restarted := false }
    ∧ t.composer.channels = List.replicate 48 none ∧ t.composer.tuned = none ∧ t.composer.decision = none
    ∧ t.composer.output = .none ∧ t.composer.slates = List.replicate 36 .empty
    ∧ t.management.unitId = s.management.unitId ∧ t.management.lastRefusal = none ∧ t.management.refusedCount = 0
    ∧ t.reply.queue = [] ∧ t.reply.flags = NoticeFlag.powerOn.set ∧ t.reply.mask = 0 ∧ t.reply.attention = false
    ∧ t.due = [] ∧ t.pending = s.pending

/-- What the scan finds, at power-on (whether or not the part has power, log entry 12) and by SCAN after a RESTART
once no operation is in flight, when a restoration that waited for it is made; at any other time SCAN does not arise
(log entry 4). The record number a resumed close holds is the model's (log entry 20). A cut allowance in progress runs
on though the page gives IMMEDIATE (log entry 40). The restoration comes before the view decision (log entry 42). A
POWER_ON loses the events of the last local second not yet taken (log entry 36). -/
def Obligations.scan_reads_page_and_slots : Prop :=
  (∀ s : State, ∃ u t, exec .powerOn s = .next t ∧ ScanFound s u ∧ Redecided u t)
    ∧ ∀ s : State, Awake s →
      (s.store.awaitingScan = true → s.store.queue = [] → ∃ u t, exec .scan s = .next t ∧ ScanFound s u
        ∧ { u with lock := s.lock, buying := s.buying, composer := s.composer, management := s.management,
                   store := s.store } = s
        ∧ { u.lock with standingF := s.lock.standingF, stayF := s.lock.stayF, g := s.lock.g, r := s.lock.r,
                        unlockMinutes := s.lock.unlockMinutes } = s.lock
        ∧ u.buying.prices = s.buying.prices ∧ u.buying.previews = s.buying.previews
        ∧ u.buying.commits = s.buying.commits ∧ u.buying.rentals = s.buying.rentals
        ∧ u.buying.marking = s.buying.marking ∧ u.buying.refusal = s.buying.refusal
        ∧ { u.composer with cutMode := s.composer.cutMode } = s.composer
        ∧ { u.management with room := s.management.room, group := s.management.group } = s.management
        ∧ u.store.restoreWaiting = s.store.restoreWaiting
        ∧ (s.store.restoreWaiting = false → Redecided u t)
        ∧ (s.store.restoreWaiting = true →
            Redecided (State.restoreRentals { u with store := { u.store with restoreWaiting := false } }) t))
      ∧ (s.store.awaitingScan = false ∨ s.store.queue ≠ [] → exec .scan s = .next s)

/-- The removal of power leaves the store's content as the operation in flight had programmed it: the steps it had
made, from the content it found (log entry 17), each field in the manual's order, an erase not completed leaving its
sector unerased; and nothing else (log entry 11 on what the lost items read as). An event of the last local second not
yet taken is lost (log entry 36). -/
def Obligations.power_removed_keeps_stored_content : Prop :=
  ∀ (s : State) (programmed : Nat), s.powered = true → ∃ t, exec (.powerRemoved programmed) s = .next t
    ∧ t.powered = false ∧ t.store.queue = [] ∧ t.reply.flags = 0 ∧ t.reply.attention = false ∧ t.reply.queue = []
    ∧ t.management.unitId = s.management.unitId ∧ t.pending = s.pending ∧ t.due = []
    ∧ (s.store.queue = [] → t.store.sectors = s.store.sectors ∧ t.store.page = s.store.page)
    ∧ ∀ q rest, s.store.queue = q :: rest →
        t.store.sectors = (s.store.programSteps q.op programmed).sectors
          ∧ t.store.page = (s.store.programSteps q.op programmed).page
          ∧ (∀ k, q.op = .eraseSector k → t.store.sectors = s.store.sectors ∧ t.store.page = s.store.page)
          ∧ (Sized s → AttemptLeaves s.store t.store q.op programmed)

/-- RESTART: volatile state at its power-on values, the operation in flight and the stored content kept, the standing
settings and room assignment in force kept until the scan, and intake searching from where it stands. That the current
folio number and the next record number are kept until the scan is the model's choice (log entry 37), and so is the mark
it leaves for a key frame that arrives together with it (log entry 44). -/
def Obligations.restart_keeps_store_and_settings : Prop :=
  ∀ (s : State) (n : Nat), Meant s (.room n) .restart → ∃ t, exec (.restart (.room n)) s = .next t
    ∧ t.powered = true ∧ t.second = 0 ∧ t.intake = { Intake.initial with position := s.intake.position }
    ∧ t.lanes = List.replicate 24 Lane.initial ∧ t.keys = List.replicate 16 { a := none, b := none } ∧ t.packages = 0
    ∧ t.notices = Notices.initial ∧ t.meters = List.replicate 8 Meter.free
    ∧ t.keypad = { Keypad.initial with restarted := true }
    ∧ t.lock.map = List.replicate 16 7 ∧ t.lock.pin = none ∧ t.lock.entry = .idle ∧ t.lock.wrongCount = 0
    ∧ t.standing = s.standing ∧ t.lock.stayF = s.lock.standingF ∧ t.lock.g = s.lock.standingF
    ∧ t.buying.prices = List.replicate 16 { price := 0, rentalMinutes := 1, previewSeconds := 0 }
    ∧ t.buying.credit = s.buying.defaultCredit ∧ t.buying.previews = [] ∧ t.buying.commits = []
    ∧ t.buying.rentals = [] ∧ t.buying.marking = [] ∧ t.buying.refusal = none
    ∧ t.composer.channels = List.replicate 48 none ∧ t.composer.tuned = none ∧ t.composer.decision = none
    ∧ t.composer.output = .none ∧ t.composer.slates = List.replicate 36 .empty
    ∧ t.management.lastRefusal = none ∧ t.management.refusedCount = 0 ∧ t.management.unitId = s.management.unitId
    ∧ t.reply.queue = [] ∧ t.reply.flags = NoticeFlag.powerOn.set ∧ t.reply.mask = 0 ∧ t.reply.attention = false
    ∧ t.store.sectors = s.store.sectors ∧ t.store.page = s.store.page ∧ t.store.queue = s.store.queue.take 1
    ∧ t.store.fault = false ∧ t.store.closing = false ∧ t.store.scanList = [] ∧ t.store.awaitingScan = true
    ∧ t.store.restoreWaiting = false ∧ t.store.folio = s.store.folio ∧ t.store.nextRecord = s.store.nextRecord
    ∧ t.store.resumed = s.store.resumed
    ∧ t.store.state = .busy ∧ t.pending = s.pending

/-! ## Cell intake -/

/-- The four checks of a header. -/
def Obligations.header_damage_by_four_checks : Prop :=
  ∀ bytes : List Byte, cellOf bytes = none ↔
    (num bytes 0 1 ≠ 0xB8 ∨ field bytes 7 1 ≠ [sumBytes (bytes.take 7)] ∨ 120 < num bytes 4 1
      ∨ num bytes 3 1 / 64 = 3)

/-- A header in LOCKED: damaged, damaged for the third time running, or good but discarded (R4): reserved and null
streams, a scrambled service cell, or a programme stream that no lane in HOLD, PASS or BLOCK has. Positions are the
model's count (log entry 5); what the two rows of a header act in is log entry 15. -/
def Obligations.locked_header_drops_or_discards : Prop :=
  ∀ (s : State) (bytes : List Byte), Awake s → s.intake.sync = .locked →
    (cellOf bytes = none → s.intake.damageRun < 2 →
      exec (.cellReceived bytes) s = .next { s with intake :=
        { s.intake with damageRun := s.intake.damageRun + 1, damageCount := countUp s.intake.damageCount,
                        position := s.intake.position + 128 } })
    ∧ (cellOf bytes = none → 2 ≤ s.intake.damageRun →
      exec (.cellReceived bytes) s = .next { s with intake :=
        { s.intake with sync := .search, goodRun := 0, damageRun := 0, damageCount := countUp s.intake.damageCount,
                        position := s.intake.position + 1 } })
    ∧ ∀ c, cellOf bytes = some c →
      (4080 ≤ c.stream ∧ (c.mark ≠ .clear ∨ c.stream < 4090 ∨ 4092 < c.stream)
        ∨ c.stream ≤ 4079 ∧ ∀ l ∈ s.lanes, l.configured = true → l.config.map (·.stream) ≠ some c.stream) →
      exec (.cellReceived bytes) s = .next { s with intake :=
        { s.intake with damageRun := 0, position := s.intake.position + 128 } }

/-- The search for three good headers at 128-byte spacing; the third, here of a cell that is discarded, makes sync
LOCKED. Positions are the model's count (log entry 5); what the command carries is log entry 15. -/
def Obligations.search_locks_on_third_good_header : Prop :=
  ∀ (s : State) (skipped : Nat) (bytes : List Byte), Awake s → s.intake.sync = .search →
    (∀ c, cellOf bytes = some c → s.intake.goodRun = 0 →
      exec (.syncSearch skipped bytes) s = .next { s with intake :=
        { s.intake with goodRun := 1, candidate := s.intake.position + skipped,
                        position := s.intake.position + skipped + 128 } })
    ∧ (∀ c, cellOf bytes = some c → s.intake.goodRun = 1 →
      exec (.syncSearch skipped bytes) s = .next { s with intake :=
        { s.intake with goodRun := 2, position := s.intake.position + 128 } })
    ∧ (∀ c, cellOf bytes = some c → s.intake.goodRun = 2 → c.stream = 4095 →
      exec (.syncSearch skipped bytes) s = .next { s with intake :=
        { s.intake with sync := .locked, goodRun := 0, damageRun := 0, position := s.intake.position + 128 } })
    ∧ (cellOf bytes = none → s.intake.goodRun = 0 →
      exec (.syncSearch skipped bytes) s = .next { s with intake :=
        { s.intake with position := s.intake.position + skipped + 1 } })
    ∧ (cellOf bytes = none → 1 ≤ s.intake.goodRun →
      exec (.syncSearch skipped bytes) s = .next { s with intake :=
        { s.intake with goodRun := 0, position := s.intake.candidate + 1 } })

/-- A cell accepted on a lane, in LOCKED or as the cell that completes a search: it is counted and checked for
sequence, on a lane in PASS its watch is ARMED with silence 0, only its own lane's counters move, and on a KEYED lane
that can open it, it joins a tuned area's newest end, recovered, a full area dropping its oldest cell. Cells a slate
then has discarded leave at once. Acceptance order is the model's stamp (log entry 6). -/
def Obligations.accepted_cell_counts_and_checks_sequence : Prop :=
  ∀ (s : State) (bytes : List Byte) (c : Cell) (i : Nat), Awake s → cellOf bytes = some c → c.stream ≤ 4079 →
    s.laneOfStream c.stream = some i →
    ∀ cmd, (s.intake.sync = .locked ∧ cmd = Instr.cellReceived bytes)
        ∨ (s.intake.sync = .search ∧ s.intake.goodRun = 2 ∧ ∃ k, cmd = .syncSearch k bytes) →
      let l := s.lane i
      let blocks := l.response ≠ .block ∧ l.keySlot = none ∧ c.mark ≠ .clear
      ∃ t, exec cmd s = .next t
        ∧ (t.lane i).accepted = countUp l.accepted
        ∧ (t.lane i).discontinuities =
            (if l.expected.any (fun q => q != c.seq) then countUp l.discontinuities else l.discontinuities)
        ∧ (t.lane i).expected = some ((c.seq + 1) % 16)
        ∧ (t.lane i).config = l.config
        ∧ (¬ blocks → (t.lane i).response = l.response
            ∧ (l.response = .pass → (t.lane i).watch = .armed ∧ (t.lane i).silence = 0)
            ∧ (l.response ≠ .pass → (t.lane i).watch = l.watch ∧ (t.lane i).silence = l.silence))
        ∧ (∀ j, j ≠ i → { t.lane j with area := (s.lane j).area } = s.lane j)
        ∧ t.intake.sync = .locked ∧ t.intake.damageCount = s.intake.damageCount
        ∧ t.keys = s.keys ∧ t.notices = s.notices ∧ t.management = s.management ∧ t.keypad = s.keypad
        ∧ t.second = s.second ∧ t.packages = s.packages
        ∧ ∀ cfg d, l.response ≠ .block → l.config = some cfg → l.keyStatus = .keyed →
            (c.mark = .clear ∧ d = c ∨ ∃ slot p key, cfg.keySlot = some slot ∧ c.mark.phase = some p
              ∧ s.keyOf slot p = some key ∧ d = c.descrambled key) →
            let full := cfg.blockCount ≤ l.area.length
            let area := (if full then l.area.tail else l.area) ++
              [{ cell := d, held := false, order := s.intake.accepted }]
            (t.lane i).keyStatus = .keyed
              ∧ (s.tunedLane i = false → (t.lane i).area = l.area ∧ (t.lane i).overflowDrops = l.overflowDrops)
              ∧ (s.tunedLane i = true →
                  (¬ OnSlate t ∨ l.response = .hold → (t.lane i).area = area)
                  ∧ (OnSlate t → l.response = .pass → (t.lane i).area = area.dropWhile fun a => !a.held)
                  ∧ (t.lane i).overflowDrops = (if full then countUp l.overflowDrops else l.overflowDrops))

/-- A scrambled cell on a clear lane in HOLD or PASS, in LOCKED or as the cell that completes a search, is counted,
makes the lane BLOCK and KEYED (log entry 9) and raises LANE_FAULT. -/
def Obligations.scrambled_cell_blocks_a_clear_lane : Prop :=
  ∀ (s : State) (bytes : List Byte) (c : Cell) (i : Nat), Awake s → cellOf bytes = some c →
    c.stream ≤ 4079 → s.laneOfStream c.stream = some i → (s.lane i).response ≠ .block → (s.lane i).keySlot = none →
    c.mark ≠ .clear →
    ∀ cmd, (s.intake.sync = .locked ∧ cmd = Instr.cellReceived bytes)
        ∨ (s.intake.sync = .search ∧ s.intake.goodRun = 2 ∧ ∃ k, cmd = .syncSearch k bytes) →
    ∃ t, exec cmd s = .next t ∧ (t.lane i).response = .block ∧ (t.lane i).keyStatus = .keyed
      ∧ (t.lane i).area = [] ∧ (t.lane i).config = (s.lane i).config
      ∧ (t.lane i).watch = .unarmed ∧ (t.lane i).silence = 0 ∧ (t.lane i).expected = some ((c.seq + 1) % 16)
      ∧ (t.lane i).accepted = countUp (s.lane i).accepted ∧ (t.lane i).keyMisses = (s.lane i).keyMisses
      ∧ t.reply.flags = s.reply.flags ||| NoticeFlag.laneFault.set

/-- A cell on a scrambled lane by its key status. KEYED, an absent phase: a tuned lane enters KEYWAIT and holds the
cell, an untuned one drops it, becomes KEYLESS and raises KEY_MISS. KEYWAIT: a tuned lane holds every cell, whatever
its key mark. KEYLESS: a cell with a phase present, or clear, makes it KEYED and is a clear cell, discarded if
untuned; an absent phase is one more miss. A held cell joins the newest end as received, a full area dropping its
oldest cell. Acceptance order is the model's stamp (log entry 6). -/
def Obligations.absent_phase_waits_tuned_misses_untuned : Prop :=
  ∀ (s : State) (bytes : List Byte) (c : Cell) (i slot : Nat) (cfg : LaneConfig), Awake s → cellOf bytes = some c →
    c.stream ≤ 4079 → s.laneOfStream c.stream = some i → (s.lane i).response ≠ .block →
    (s.lane i).config = some cfg → cfg.keySlot = some slot →
    ∀ cmd, (s.intake.sync = .locked ∧ cmd = Instr.cellReceived bytes)
        ∨ (s.intake.sync = .search ∧ s.intake.goodRun = 2 ∧ ∃ k, cmd = .syncSearch k bytes) →
    let l := s.lane i
    let absent := ∃ p, c.mark.phase = some p ∧ s.keyOf slot p = none
    let opens (d : Cell) := c.mark = .clear ∧ d = c
      ∨ ∃ p key, c.mark.phase = some p ∧ s.keyOf slot p = some key ∧ d = c.descrambled key
    ∃ t, exec cmd s = .next t ∧
      let l' := t.lane i
      let area (xs : List AreaCell) : Prop :=
        (s.tunedLane i = false ∨ ¬ OnSlate t ∨ l.response = .hold → l'.area = xs)
          ∧ (s.tunedLane i = true → OnSlate t → l.response = .pass → l'.area = xs.dropWhile fun a => !a.held)
      let full := cfg.blockCount ≤ l.area.length
      let joins (d : Cell) (held : Bool) : Prop :=
        area ((if full then l.area.tail else l.area) ++ [{ cell := d, held := held, order := s.intake.accepted }])
          ∧ l'.overflowDrops = (if full then countUp l.overflowDrops else l.overflowDrops)
      let stays : Prop := area l.area ∧ l'.overflowDrops = l.overflowDrops
      (∀ p, l.keyStatus = .keyed → c.mark.phase = some p → s.keyOf slot p = none → s.tunedLane i = true →
        l'.keyStatus = .keywait s.second slot p ∧ l'.keyMisses = l.keyMisses ∧ t.reply.flags = s.reply.flags
          ∧ joins c true)
      ∧ (l.keyStatus = .keyed → absent → s.tunedLane i = false →
          l'.keyStatus = .keyless ∧ l'.keyMisses = countUp l.keyMisses ∧ stays
            ∧ t.reply.flags = s.reply.flags ||| NoticeFlag.keyMiss.set)
      ∧ (∀ start k p, l.keyStatus = .keywait start k p → s.tunedLane i = true →
          l'.keyStatus = l.keyStatus ∧ l'.keyMisses = l.keyMisses ∧ t.reply.flags = s.reply.flags ∧ joins c true)
      ∧ (∀ d, l.keyStatus = .keyless → opens d →
          l'.keyStatus = .keyed ∧ l'.keyMisses = l.keyMisses ∧ t.reply.flags = s.reply.flags
            ∧ (s.tunedLane i = true → joins d false) ∧ (s.tunedLane i = false → stays))
      ∧ (l.keyStatus = .keyless → absent →
          l'.keyStatus = .keyless ∧ l'.keyMisses = countUp l.keyMisses ∧ t.reply.flags = s.reply.flags ∧ stays)

/-- A service cell, in LOCKED or as the cell that completes a search, acts on intake moved past it. A management cell
that addresses no room or another is discarded; one that addresses the room acts as the command its payload carries,
by the layouts of section 12.2, or is refused RANGE: with no command code or an unknown one, too short for its
command, or with a code that leaves no command. A time beacon and a notice act as theirs, or are counted. Positions
are the model's count (log entry 5); that a cell acts as its command's own row, and what codes no field holds do, are
log entries 14 and 26. -/
def Obligations.management_cell_acts_or_is_discarded : Prop :=
  ∀ (s : State) (bytes : List Byte) (c : Cell) (cmd : Instr) (intake : Intake), Awake s → cellOf bytes = some c →
    c.mark = .clear →
    (s.intake.sync = .locked ∧ cmd = .cellReceived bytes
        ∧ intake = { s.intake with damageRun := 0, position := s.intake.position + 128 }
      ∨ s.intake.sync = .search ∧ s.intake.goodRun = 2 ∧ (∃ k, cmd = .syncSearch k bytes)
        ∧ intake = { s.intake with sync := .locked, goodRun := 0, damageRun := 0,
                                   position := s.intake.position + 128 }) →
    let past : State := { s with intake := intake }
    let counted : State :=
      { past with notices := { s.notices with discardCount := countUp s.notices.discardCount } }
    let n (start width : Nat) : Nat := num c.payload start width
    let opt (start : Nat) : Option Nat := if n start 1 = 255 then none else some (n start 1)
    let acts (i : Instr) : Prop := exec cmd s = exec i past
    let refused (k : CommandKind) : Prop := exec cmd s = .next (past.refuse k .range)
    (∀ start, n start 0 = 0) ∧ (∀ start width, start + width < c.payload.length →
      n start (width + 1) = 256 * n start width + (c.payload.getD (start + width) 0).toNat)
    ∧ (c.stream = 4090 →
      let kind := n 0 1
      let value := n 1 6
      (c.length < 7 ∨ 4 ≤ kind → exec cmd s = .next past)
      ∧ ∀ t, (kind = 0 ∧ t = .all ∨ kind = 1 ∧ t = .group value ∨ kind = 2 ∧ t = .room value
          ∨ kind = 3 ∧ t = .unit value) → 7 ≤ c.length →
        (s.addressed t = false → exec cmd s = .next past)
        ∧ (s.addressed t = true →
          let row (code parameters : Nat) (k : CommandKind) (i : Instr) : Prop := 8 ≤ c.length → n 7 1 = code →
            (8 + parameters ≤ c.length → acts i) ∧ (c.length < 8 + parameters → refused k)
          (c.length = 7 ∨ 23 ≤ n 7 1 → refused .unknown)
          ∧ row 0 3 .assignRoom (.assignRoom t (n 8 2) (n 10 1))
          ∧ row 1 0 .restart (.restart t)
          ∧ row 2 9 .loadLane
              (.loadLane t (n 8 1) (n 9 2) (n 11 1) (n 12 1) (opt 13) (n 14 1) (n 15 1) (n 16 1))
          ∧ row 3 2 .setLaneResponse (.setLaneResponse t (n 8 1) (n 9 1))
          ∧ row 4 6 .loadKey (.loadKey t (n 8 1) (n 9 1) (BitVec.ofNat 32 (n 10 4)))
          ∧ row 5 2 .clearKey (.clearKey t (n 8 1) (n 9 1))
          ∧ row 6 4 .setPackages (.setPackages t (BitVec.ofNat 32 (n 8 4)))
          ∧ row 7 9 .loadChannel
              (.loadChannel t (n 8 1) (n 9 1) (n 10 2) (n 12 1) (opt 13) (n 14 1) (n 15 1) (n 16 1))
          ∧ row 8 16 .loadRatingMap (.loadRatingMap t ((List.range' 8 16).map fun k => n k 1))
          ∧ row 9 3 .setCeiling (.setCeiling t (n 8 1) (n 9 1) (opt 10))
          ∧ row 10 4 .setPin (.setPin t
              (if n 8 1 = 255 ∧ n 9 1 = 255 ∧ n 10 1 = 255 ∧ n 11 1 = 255 then none
               else some { d1 := n 8 1, d2 := n 9 1, d3 := n 10 1, d4 := n 11 1 }))
          ∧ row 11 1 .setUnlockMinutes (.setUnlockMinutes t (n 8 1))
          ∧ row 12 7 .loadPrice (.loadPrice t (n 8 1) (BitVec.ofNat 16 (n 9 2)) (n 11 2) (n 13 2))
          ∧ row 13 10 .setBilling (.setBilling t (n 8 1) (n 9 2) (n 11 3) (n 14 1) (n 15 3))
          ∧ row 14 3 .setCredit (.setCredit t (n 8 3))
          ∧ row 15 4 .extendRental (.extendRental t (n 8 2) (n 10 2))
          ∧ row 16 3 .closeFolio (.closeFolio t (n 8 2) (n 10 1))
          ∧ (n 10 1 = 0 → row 17 13 .loadSlate (.loadSlateHeader t (n 8 1) (n 9 1)
              { form := n 11 1, stream := n 12 2, startMark := n 14 1, length := n 15 1, fillCount := n 16 1,
                offset1 := n 17 1, kind1 := n 18 1, offset2 := n 19 1, kind2 := n 20 1 }))
          ∧ (1 ≤ n 10 1 → n 10 1 ≤ 3 → row 17 43 .loadSlate (.loadSlatePayload t (n 8 1) (n 9 1) (n 10 1 - 1)
              ((c.payload.drop 11).take 40)))
          ∧ (8 ≤ c.length → n 7 1 = 17 → 3 < n 10 1 → refused .loadSlate)
          ∧ row 18 1 .setCutMode (.setCutMode t (n 8 1))
          ∧ (n 8 1 = 0 → row 19 4 .poll (.pollStatus t))
          ∧ (n 8 1 = 1 → row 19 4 .poll (.pollRecords t (n 9 2) (n 11 1)))
          ∧ (n 8 1 = 2 → row 19 4 .poll (.pollLane t (n 9 2)))
          ∧ (8 ≤ c.length → n 7 1 = 19 → 2 < n 8 1 → refused .poll)
          ∧ row 20 4 .settle (.settle t (n 8 2) (n 10 2))
          ∧ row 21 2 .clearNotices (.clearNotices t (BitVec.ofNat 16 (n 8 2)))
          ∧ row 22 2 .setNoticeMask (.setNoticeMask t (BitVec.ofNat 16 (n 8 2)))))
    ∧ (c.stream = 4091 →
      (c.length < 4 → exec cmd s = .next counted)
      ∧ (4 ≤ c.length → acts (.timeBeacon (BitVec.ofNat 32 (n 0 4)))))
    ∧ (c.stream = 4092 →
      let f : NoticeFields :=
        { channel := BitVec.ofNat 16 (n 0 2), programme := BitVec.ofNat 16 (n 3 2),
          rating := BitVec.ofNat 4 (n 5 1 / 16), priceClass := BitVec.ofNat 4 (n 5 1 % 16),
          start := BitVec.ofNat 32 (n 6 4), stop := BitVec.ofNat 32 (n 10 4) }
      (c.length < 14 → exec cmd s = .next counted)
      ∧ (14 ≤ c.length → n 2 1 = 0 → acts (.currentNotice f))
      ∧ (14 ≤ c.length → n 2 1 = 1 → acts (.nextNotice f))
      ∧ (14 ≤ c.length → 1 < n 2 1 → s.entryIndex (n 0 2) = none → exec cmd s = .next past)
      ∧ (14 ≤ c.length → 1 < n 2 1 → s.entryIndex (n 0 2) ≠ none → exec cmd s = .next counted))

/-- Which targets address a room: ALL and its unit identifier always, its group and room number while it is assigned. -/
def Obligations.targets_that_address_a_room : Prop :=
  ∀ s : State, s.management.room ≤ 9999 → s.management.group ≤ 63 →
    s.addressed .all = true
      ∧ (∀ g, s.addressed (.group g) = true ↔ s.management.room ≠ 0 ∧ g = s.management.group)
      ∧ (∀ n, s.addressed (.room n) = true ↔ s.management.room ≠ 0 ∧ n = s.management.room)
      ∧ (∀ u, s.addressed (.unit u) = true ↔ u ≠ 0 ∧ u = s.management.unitId)

/-! ## In-band management -/

/-- A command that does not address the room is discarded; ASSIGN ROOM with a target other than UNIT, RESTART or POLL
with a target other than ROOM, and a cell that names no command, are refused RANGE; any other target is accepted. A
refusal is recorded, counted and raises COMMAND_REFUSED, and does nothing else. -/
def Obligations.targets_decide_discard_and_refusal : Prop :=
  ∀ (c : Instr) (t : Target) (k : CommandKind) (s : State), Awake s → c.managed = some (t, k) →
    let misdirected := k = .assignRoom ∧ (∀ u, t ≠ .unit u) ∨ (k = .restart ∨ k = .poll) ∧ ∀ n, t ≠ .room n
    (targetAccepted k t = true ↔ ¬ misdirected)
    ∧ (s.addressed t = false → exec c s = .next s)
    ∧ (s.addressed t = true → misdirected ∨ k = .unknown →
        exec c s = .next
          { s with
            management := { s.management with lastRefusal := some (k, .range)
                                              refusedCount := countUp s.management.refusedCount }
            reply := s.reply.withFlags (s.reply.flags ||| NoticeFlag.commandRefused.set) s.reply.mask })

/-- A management command other than RESTART is refused, changing nothing but what the refusal records, or leaves the
last refusal and the refused count as they were. -/
def Obligations.refused_command_changes_nothing_else : Prop :=
  ∀ (c : Instr) (t : Target) (k : CommandKind) (s : State), Awake s → c.managed = some (t, k) → k ≠ .restart →
    ∃ u, exec c s = .next u ∧
      (u.management.lastRefusal = s.management.lastRefusal ∧ u.management.refusedCount = s.management.refusedCount ∨
        ∃ r, u = { s with
            management := { s.management with lastRefusal := some (k, r)
                                              refusedCount := countUp s.management.refusedCount }
            reply := s.reply.withFlags (s.reply.flags ||| NoticeFlag.commandRefused.set) s.reply.mask })

/-! ## Lanes and keys -/

/-- LOAD LANE: the first of its checks that fails refuses it; else the six fields are written, the lane keeps its
response and everything else of it is as after power-on (log entry 26 on operands wider than a field). -/
def Obligations.load_lane_checks_then_loads : Prop :=
  ∀ (s : State) (t : Target) (lane stream kind package : Nat) (keySlot : Option Nat)
    (firstBlock blockCount watchCode : Nat), Meant s t .loadLane → AreasBounded s →
    let cmd := Instr.loadLane t lane stream kind package keySlot firstBlock blockCount watchCode
    let inRange := stream ≤ 4079 ∧ kind ≤ 1 ∧ package ≤ 31 ∧ (∀ k, keySlot = some k → k ≤ 15) ∧ firstBlock ≤ 95
      ∧ 1 ≤ blockCount ∧ blockCount ≤ 16 ∧ watchCode ≤ 7
    let c : LaneConfig :=
      { stream := stream, kind := if kind = 0 then .picture else .sound, package := package, keySlot := keySlot,
        firstBlock := firstBlock, blockCount := blockCount, watchCode := watchCode }
    (24 ≤ lane → exec cmd s = .next (s.refuse .loadLane .range))
    ∧ (lane < 24 → (s.lane lane).response = .pass ∨ (s.lane lane).response = .block →
        exec cmd s = .next (s.refuse .loadLane .busy))
    ∧ (lane < 24 → (s.lane lane).response = .idle ∨ (s.lane lane).response = .hold →
        (¬ inRange → exec cmd s = .next (s.refuse .loadLane .range))
        ∧ (inRange → LaneClash s lane c → exec cmd s = .next (s.refuse .loadLane .conflict))
        ∧ (inRange → ¬ LaneClash s lane c → ∃ u, exec cmd s = .next u
            ∧ Redecided (s.setLane lane { Lane.initial with config := some c, response := (s.lane lane).response }) u))

/-- SET LANE RESPONSE by the table of R9; that a lane entering BLOCK becomes KEYED is read from section 2.3's summary
table (log entry 9). -/
def Obligations.set_lane_response_table : Prop :=
  ∀ (s : State) (t : Target) (lane response : Nat), Meant s t .setLaneResponse → AreasBounded s →
    let cmd := Instr.setLaneResponse t lane response
    let l := s.lane lane
    let refused (r : Reason) := exec cmd s = .next (s.refuse .setLaneResponse r)
    let becomes (l' : Lane) := ∃ u, exec cmd s = .next u ∧ Redecided (s.setLane lane l') u
    (24 ≤ lane ∨ 4 ≤ response → refused .range)
    ∧ (lane < 24 →
        (response = 0 → l.response = .idle → becomes l)
        ∧ (response = 0 → l.response ≠ .idle → s.laneNamed lane = true → refused .conflict)
        ∧ (response = 0 → l.response ≠ .idle → s.laneNamed lane = false →
            becomes { l with response := .idle, watch := .unarmed, silence := 0, expected := none, keyStatus := .keyed,
                             area := [] })
        ∧ (response = 1 → l.response = .hold → becomes l)
        ∧ (response = 1 → l.response = .idle → l.config = none → refused .state)
        ∧ (∀ c, response = 1 → l.response = .idle → l.config = some c → AreaClash s lane c → refused .conflict)
        ∧ (∀ c, response = 1 → l.response = .idle → l.config = some c → ¬ AreaClash s lane c →
            becomes { l with response := .hold, watch := .unarmed, silence := 0, expected := none, keyStatus := .keyed,
                             area := [] })
        ∧ (response = 1 → l.response = .pass ∨ l.response = .block →
            becomes { l with response := .hold, watch := .unarmed, silence := 0 })
        ∧ (response = 2 → l.response = .pass → becomes l)
        ∧ (response = 2 → l.response = .hold → becomes { l with response := .pass, watch := .unarmed, silence := 0 })
        ∧ (response = 2 → l.response = .idle ∨ l.response = .block → refused .state)
        ∧ (response = 3 → l.response = .block → becomes l)
        ∧ (response = 3 → l.response = .idle → refused .state)
        ∧ (response = 3 → l.response = .hold ∨ l.response = .pass →
            becomes { l with response := .block, watch := .unarmed, silence := 0, keyStatus := .keyed, area := [] }))

/-- LOAD KEY, CLEAR KEY and SET PACKAGES. A key value loaded into an absent phase ends each key wait on that phase of
that slot: held cells are recovered where the slot now has their phase and dropped as key misses where it has not. -/
def Obligations.key_and_package_commands : Prop :=
  ∀ (s : State) (t : Target) (slot phase : Nat) (key set : Word32), Awake s → s.addressed t = true →
    (15 < slot ∨ 1 < phase →
      exec (.loadKey t slot phase key) s = .next (s.refuse .loadKey .range)
        ∧ exec (.clearKey t slot phase) s = .next (s.refuse .clearKey .range))
    ∧ (∀ p, slot ≤ 15 → phaseOf phase = some p →
        exec (.clearKey t slot phase) s = .next { s with keys := s.keys.set slot ((s.keySlot slot).withPhase none p) }
        ∧ (s.keyOf slot p ≠ none → exec (.loadKey t slot phase key) s =
            .next { s with keys := s.keys.set slot ((s.keySlot slot).withPhase (some key) p) })
        ∧ (s.keyOf slot p = none → s.keys.length = 16 → ∃ u, exec (.loadKey t slot phase key) s = .next u
            ∧ Redecided
                { s with
                  keys := s.keys.set slot ((s.keySlot slot).withPhase (some key) p)
                  lanes := s.lanes.map fun l =>
                    if l.waitsFor slot p then
                      { l with
                        keyStatus := .keyed
                        area := l.area.filterMap fun c =>
                          if c.held then
                            (c.cell.opened ((s.keySlot slot).withPhase (some key) p)).map fun d =>
                              { c with cell := d, held := false }
                          else some c
                        keyMisses := min 65535 (l.keyMisses + (l.area.filter fun c => c.held &&
                          (c.cell.opened ((s.keySlot slot).withPhase (some key) p)).isNone).length) }
                    else l } u))
    ∧ ∃ u, exec (.setPackages t set) s = .next u ∧ Redecided { s with packages := set } u

/-- The keystream: byte k of a scrambled payload is recovered by subtracting the upper byte of state k + 1; bytes beyond
the payload length are left as received. -/
def Obligations.keystream_recovers_payload : Prop :=
  ∀ (c : Cell) (key : Word32), c.payload.length = 120 → c.length ≤ 120 →
    let x0 := (key.toNat % 65536 + 3 * (key.toNat / 65536) + 257 * c.stream + 4099 * c.seq) % 65536
    let x (i : Nat) := (fun x => (40693 * x + 2713) % 65536)^[i] x0
    (c.descrambled key).payload.length = 120
    ∧ (∀ k, k < c.length → (c.descrambled key).payload.getD k 0 =
        c.payload.getD k 0 - BitVec.ofNat 8 (x (k + 1) / 256))
    ∧ (∀ k, c.length ≤ k → (c.descrambled key).payload.getD k 0 = c.payload.getD k 0)
    ∧ { c.descrambled key with mark := c.mark, payload := c.payload } = c ∧ (c.descrambled key).mark = .clear

/-! ## Channels, tuning and the view decision -/

/-- LOAD CHANNEL: its checks, and what it does to the table, to the notices and to the tuned channel (log entry 23 on
which decision a changed picture lane waits by, log entry 35 on what a change of programme reaches first, log entry 41
on the pay byte). -/
def Obligations.load_channel_checks_and_effect : Prop :=
  ∀ (s : State) (t : Target) (i form number picture : Nat) (sound : Option Nat) (package cls pay : Nat),
    Meant s t .loadChannel → Sized s →
    let cmd := Instr.loadChannel t i form number picture sound package cls pay
    let inRange := 1 ≤ number ∧ number ≤ 999 ∧ picture ≤ 23 ∧ (∀ x, sound = some x → x ≤ 23) ∧ package ≤ 31
      ∧ cls ≤ 7 ∧ pay ≤ 1
    let e : ChannelEntry :=
      { number := number, picture := picture, sound := sound, package := package, defaultClass := cls,
        pay := pay == 1 }
    let is (lane : Nat) (k : LaneKind) := (s.lane lane).response ≠ .idle ∧ (s.lane lane).config.map (·.kind) = some k
    let clash := (∃ j c, j ≠ i ∧ s.entryAt j = some c ∧ c.number = number) ∨ ¬ is picture .picture
      ∨ ∃ x, sound = some x ∧ ¬ is x .sound
    let written (new : Option ChannelEntry) : State :=
      { s with composer := { s.composer with channels := s.composer.channels.set i new } }
    let blank (u : State) : State :=
      { u with notices := { u.notices with entries := u.notices.entries.set i { current := none, next := none } } }
    let left (l : Lane) : Lane :=
      { l with area := [], keyStatus := (match l.keyStatus with | .keywait _ _ _ => .keyless | k => k) }
    let waits (u : State) : State := { u with composer := { u.composer with
      output := if u.composer.output = .showing then .waitingStart else u.composer.output } }
    (47 < i ∨ 1 < form ∨ form = 0 ∧ ¬ inRange → exec cmd s = .next (s.refuse .loadChannel .range))
    ∧ (i ≤ 47 → form = 0 → inRange → clash → exec cmd s = .next (s.refuse .loadChannel .conflict))
    ∧ (i ≤ 47 → form = 0 → inRange → ¬ clash → s.entryAt i = none →
        ∃ v, exec cmd s = .next v ∧ Redecided (blank (written (some e))) v)
    ∧ (i ≤ 47 → form = 1 → s.entryAt i = none → ∃ v, exec cmd s = .next v ∧ Redecided (blank (written none)) v)
    ∧ (∀ old, i ≤ 47 → form = 0 → inRange → ¬ clash → s.entryAt i = some old → old.number = number →
        (s.composer.tuned ≠ some number → ∃ v, exec cmd s = .next v ∧ Redecided (written (some e)) v)
        ∧ (s.composer.tuned = some number →
            let u := (written (some e)).untuneLanes old (some e)
            { u with lanes := s.lanes } = written (some e)
            ∧ (∀ j, old.names j = true → e.names j = false → u.lane j = left (s.lane j))
            ∧ (∀ j, old.names j = false ∨ e.names j = true → u.lane j = s.lane j)
            ∧ (old.picture = picture → ∃ v, exec cmd s = .next v ∧ Redecided u v)
            ∧ (old.picture ≠ picture → ∃ w v, exec cmd s = .next v ∧ Redecided (waits u) w ∧ v = waits w
                ∧ v.composer.channels = s.composer.channels.set i (some e) ∧ v.composer.tuned = some number
                ∧ v.composer.decision = some (u.viewDecision e).1 ∧ v.notices = s.notices ∧ v.keypad = s.keypad
                ∧ ((u.viewDecision e).1 = .show → s.composer.output = .showing → v.composer.output = .waitingStart))))
    ∧ (∀ old, i ≤ 47 → (form = 1 ∨ form = 0 ∧ inRange ∧ ¬ clash ∧ old.number ≠ number) → s.entryAt i = some old →
        let new := if form = 1 then none else some e
        ∃ u, u.composer = (written new).composer ∧ u.notices = (blank s).notices
          ∧ { u with composer := s.composer, notices := s.notices, buying := s.buying, meters := s.meters,
                     store := s.store } = s
          ∧ ((s.noticeAt i).current = none → u.buying = s.buying ∧ u.meters = s.meters ∧ u.store = s.store)
          ∧ ((s.noticeAt i).current ≠ none → ProgrammeChanged s u old.number)
          ∧ (s.composer.tuned ≠ some old.number → ∃ v, exec cmd s = .next v ∧ Redecided u v)
          ∧ (s.composer.tuned = some old.number → ∃ v, exec cmd s = .next v
              ∧ v.composer = { u.composer with tuned := none, decision := none, output := .none }
              ∧ v.notices = u.notices ∧ { v.buying with refusal := u.buying.refusal } = u.buying
              ∧ v.buying.refusal = none ∧ v.store = u.store ∧ v.meters = u.meters
              ∧ (∀ j, old.names j = true → v.lane j = left (s.lane j))
              ∧ (∀ j, old.names j = false → v.lane j = s.lane j)
              ∧ { v.lock with entry := s.lock.entry } = s.lock ∧ (∀ m ds k, v.lock.entry ≠ .unlock m ds k)
              ∧ ((∀ m ds k, s.lock.entry ≠ .unlock m ds k) → v.lock.entry = s.lock.entry)
              ∧ { v with composer := s.composer, notices := s.notices, buying := s.buying, meters := s.meters,
                         store := s.store, lanes := s.lanes, lock := s.lock } = s))

/-- The view decision of a channel, row by row, when its asking begins a preview, and all that taking it afresh does:
the output state and the cells under a slate follow it (log entry 8 on when it is taken). -/
def Obligations.view_decision_rows : Prop :=
  ∀ (s : State), Redecided s s.finish ∧ ∀ (e : ChannelEntry),
    let l := s.lane e.picture
    let cls := match s.current e.number with
      | some p => s.lock.map.getD p.rating 7
      | none => e.defaultClass
    let unsold := l.response = .hold ∨ l.response = .block ∨ s.packages.getLsbD e.package = false
    let restricted := s.lock.r ≤ cls
    let locked := s.lock.g < cls ∨ restricted ∧ (s.lock.pin = none ∨ (s.meter 0).use = .lockout)
    let pin := restricted ∧ (s.meter 0).use ≠ .unlock
    let is (v : View) := (s.viewDecision e).1 = v
    let goesOn := (l.watch = .lost → is (.slate .noSignal))
      ∧ (l.watch ≠ .lost → l.keyStatus = .keyless → is (.slate .noKey))
      ∧ (l.watch ≠ .lost → l.keyStatus ≠ .keyless → is .show)
    (unsold → is (.slate .notSubscribed))
    ∧ (¬ unsold → locked → is (.slate .locked))
    ∧ (¬ unsold → ¬ locked → pin → is (.slate .pin))
    ∧ (¬ unsold → ¬ locked → ¬ pin →
        (e.pay = true → s.current e.number = none → is (.slate .unavailable))
        ∧ (e.pay = false → s.current e.number = none → goesOn)
        ∧ ∀ p, s.current e.number = some p →
            (s.priceOf p = 0 → goesOn)
            ∧ (s.priceOf p ≠ 0 →
                let rental := ∃ r ∈ s.buying.rentals, r.programme = p.id
                let refused (r : BuyRefusal) := s.buying.refusal = some r ∧ r.programme = p.id ∧ r.channel = e.number
                let direct := ∃ c ∈ s.buying.commits, c.programme = p.id ∧ c.kind = .direct
                let preview := ∃ q ∈ s.buying.previews, q.programme = p.id
                let free := ∃ i, 1 ≤ i ∧ i ≤ 7 ∧ (s.meter i).use = .free ∧ (s.meter i).hold = none
                (rental → goesOn)
                ∧ (¬ rental → ∀ r, refused r → is (.slate r.slate))
                ∧ (¬ rental → (∀ r, ¬ refused r) → direct → is (.slate .wait))
                ∧ (¬ rental → (∀ r, ¬ refused r) → ¬ direct → preview → goesOn)
                ∧ (¬ rental → (∀ r, ¬ refused r) → ¬ direct → ¬ preview →
                    (s.buying.billing = false → is (.slate .unavailable))
                    ∧ (s.buying.billing = true → s.canPreview p = true → goesOn)
                    ∧ (s.buying.billing = true → s.canPreview p = false → ¬ free → is (.slate .unavailable))
                    ∧ (s.buying.billing = true → s.canPreview p = false → free → is (.slate .offer)))))
    ∧ ((s.viewDecision e).2 = true ↔ ¬ unsold ∧ ¬ locked ∧ ¬ pin ∧ ∃ p, s.current e.number = some p ∧ s.priceOf p ≠ 0
        ∧ (∀ r ∈ s.buying.rentals, r.programme ≠ p.id)
        ∧ (∀ r, s.buying.refusal = some r → ¬ (r.programme = p.id ∧ r.channel = e.number))
        ∧ (∀ c ∈ s.buying.commits, ¬ (c.programme = p.id ∧ c.kind = .direct))
        ∧ (∀ q ∈ s.buying.previews, q.programme ≠ p.id) ∧ s.canPreview p = true)

/-- When a preview can begin, and what its begin does: one record number is given out, its APPEND is in flight, and the
lowest free meter of 1..7 counts it. -/
def Obligations.preview_begins_with_record_and_meter : Prop :=
  ∀ (s : State) (n : Nat) (p : Programme),
    (s.canPreview p = true ↔ s.buying.billing = true ∧ 0 < (s.priceEntry p.priceClass).previewSeconds
      ∧ (∀ q ∈ s.buying.previews, q.programme ≠ p.id) ∧ (∀ c ∈ s.buying.commits, c.programme ≠ p.id)
      ∧ (∀ r ∈ s.buying.rentals, r.programme ≠ p.id) ∧ (∀ x ∈ s.store.records, x.1.programme ≠ some p.id)
      ∧ (∃ i, 1 ≤ i ∧ i ≤ 7 ∧ (s.meter i).use = .free ∧ (s.meter i).hold = none)
      ∧ s.notices.hotelTime ≠ none ∧ s.store.state = .ready)
    ∧ (s.canPreview p = true → s.meters.length = 8 → ∃ i, 1 ≤ i ∧ i ≤ 7
        ∧ (s.meter i).use = .free ∧ (s.meter i).hold = none
        ∧ (∀ j, 1 ≤ j → j < i → ¬ ((s.meter j).use = .free ∧ (s.meter j).hold = none))
        ∧ s.beginPreview n p =
          { s with
            meters := s.meters.set i
              { use := .preview, count := 0, period := some (s.priceEntry p.priceClass).previewSeconds,
                compare1 := none, buffered := none, gating := some .viewing, programme := some p.id,
                channel := some n, record := some s.store.nextRecord, hold := none }
            store := { s.store with
              nextRecord := s.store.nextRecord + 1
              queue := [{ op := .append
                            { folio := s.store.folio, number := s.store.nextRecord, programme := p.id, channel := n,
                              priceClass := p.priceClass, minutes := (s.priceEntry p.priceClass).rentalMinutes,
                              commit := none }
                          retried := false }] }
            buying := { s.buying with previews := s.buying.previews ++
              [{ programme := p.id, channel := n, record := s.store.nextRecord, meter := i, state := .running }] } })

/-! ## Standing settings and loads -/

/-- ASSIGN ROOM, SET UNLOCK MINUTES, SET BILLING and SET CUT MODE: out of range is refused RANGE, a closing store
BUSY, a full queue with no unstarted WRITE SETTINGS FULL; else the values are in force and a WRITE SETTINGS is asked
for. The billing byte is yes at 1 and no at 0 (log entry 41). SET CUT MODE IMMEDIATE ends a cut allowance. The write joins
the queue before the view decision is taken (log entry 43). -/
def Obligations.standing_settings_take_effect_at_once : Prop :=
  ∀ (s : State) (t : Target) (room group minutes enabled tax cap day credit mode : Nat), Awake s →
    s.addressed t = true →
    let busy := s.store.closing = true ∨ s.store.awaitingScan = true
    let full := 8 ≤ s.store.queue.length ∧ ∀ q ∈ s.store.queue.tail, q.op.isWriteSettings = false
    let refuses (cmd : Instr) (k : CommandKind) (inRange : Prop) : Prop :=
      (¬ inRange → exec cmd s = .next (s.refuse k .range))
      ∧ (inRange → busy → exec cmd s = .next (s.refuse k .busy))
      ∧ (inRange → ¬ busy → full → exec cmd s = .next (s.refuse k .full))
    let setting (cmd : Instr) (k : CommandKind) (inRange : Prop) (new : State) : Prop :=
      refuses cmd k inRange
      ∧ (inRange → ¬ busy → ¬ full → ∃ u, exec cmd s = .next u ∧ Redecided new.requestSettings u)
    (targetAccepted .assignRoom t = true →
      setting (.assignRoom t room group) .assignRoom (room ≤ 9999 ∧ group ≤ 63)
        { s with management := { s.management with room := room, group := group } })
    ∧ setting (.setUnlockMinutes t minutes) .setUnlockMinutes (10 ≤ minutes ∧ minutes ≤ 240)
        { s with lock := { s.lock with unlockMinutes := minutes } }
    ∧ setting (.setBilling t enabled tax cap day credit) .setBilling
        (enabled ≤ 1 ∧ cap ≤ 200000 ∧ day ≤ 23 ∧ credit ≤ 1000000)
        { s with buying := { s.buying with billing := enabled == 1, taxRate := min tax 2500, dayCap := cap,
                                           dayStart := day, defaultCredit := credit } }
    ∧ (¬ (mode = 0 ∧ ∃ start, s.composer.output = .cutting start) →
        setting (.setCutMode t mode) .setCutMode (mode ≤ 1)
          { s with composer := { s.composer with cutMode := if mode = 0 then .immediate else .boundary } })
    ∧ refuses (.setCutMode t mode) .setCutMode (mode ≤ 1)
    ∧ (∀ k start, mode = 0 → s.composer.output = .cutting start → ¬ busy → ¬ full →
        s.composer.decision = some (.slate k) →
        let asked := State.requestSettings { s with composer := { s.composer with cutMode := .immediate } }
        ∃ u, exec (.setCutMode t mode) s = .next u ∧ u.composer.cutMode = .immediate
          ∧ Redecided { asked with composer := { asked.composer with output := .slate k none 0 } } u
          ∧ ∀ e, s.tunedEntry = some e → (asked.viewDecision e).1 = .slate k →
              u.composer.output = .slate k none 0 ∧ u.composer.decision = some (.slate k))

/-- A WRITE SETTINGS asked for: one that has not started serves the request; a FAULTED store refuses it; else it joins
the queue, if that has room, and takes its values at its start. -/
def Obligations.write_settings_is_merged_or_queued : Prop :=
  ∀ s : State,
    ((∃ q ∈ s.store.queue.tail, q.op.isWriteSettings = true) → s.requestSettings = s)
    ∧ (s.store.fault = true ∨ s.store.closing = true ∨ s.store.awaitingScan = true → s.requestSettings = s)
    ∧ (s.store.fault = false → s.store.closing = false → s.store.awaitingScan = false →
        (s.store.queue = [] → s.requestSettings = { s with store := { s.store with queue :=
          [{ op := .writeSettings false (some (s.store.folio, s.standing)), retried := false }] } })
        ∧ (8 ≤ s.store.queue.length → s.requestSettings = s)
        ∧ (s.store.queue ≠ [] → s.store.queue.length < 8 → (∀ q ∈ s.store.queue.tail, q.op.isWriteSettings = false) →
            s.requestSettings = { s with store := { s.store with queue :=
              s.store.queue ++ [{ op := .writeSettings false none, retried := false }] } }))

/-- SET CEILING: its checks, the reach of its target, and G held at or below F. A standing one's write joins the queue
before the view decision is taken (log entry 43). -/
def Obligations.set_ceiling_by_target : Prop :=
  ∀ (s : State) (t : Target) (ceiling scope : Nat) (threshold : Option Nat), Awake s → s.addressed t = true →
    let cmd := Instr.setCeiling t ceiling scope threshold
    let inRange := ceiling ≤ 7 ∧ scope ≤ 1 ∧ ∀ r, threshold = some r → 1 ≤ r ∧ r ≤ 8
    let standing := scope = 1 ∨ threshold ≠ none
    let busy := s.store.closing = true ∨ s.store.awaitingScan = true
    let full := 8 ≤ s.store.queue.length ∧ ∀ q ∈ s.store.queue.tail, q.op.isWriteSettings = false
    let many := t = .all ∨ ∃ g, t = .group g
    let moved (held value : Nat) : Nat := match t with
      | .all => min value held
      | .group _ => min value held
      | .room _ => value
      | .unit _ => value
    let new : State :=
      { s with lock := { s.lock with
          stayF := moved s.lock.stayF ceiling
          standingF := if scope = 1 then moved s.lock.standingF ceiling else s.lock.standingF
          r := match threshold with
            | some r => moved s.lock.r r
            | none => s.lock.r
          g := min s.lock.g (moved s.lock.stayF ceiling) } }
    (¬ inRange → exec cmd s = .next (s.refuse .setCeiling .range))
    ∧ (inRange → standing → busy → exec cmd s = .next (s.refuse .setCeiling .busy))
    ∧ (inRange → standing → ¬ busy → full → exec cmd s = .next (s.refuse .setCeiling .full))
    ∧ (inRange → standing → ¬ busy → ¬ full → ∃ u, exec cmd s = .next u ∧ Redecided new.requestSettings u)
    ∧ (inRange → ¬ standing → ∃ u, exec cmd s = .next u ∧ Redecided new u)
    ∧ (many → new.lock.stayF ≤ s.lock.stayF ∧ new.lock.standingF ≤ s.lock.standingF ∧ new.lock.r ≤ s.lock.r)

/-- LOAD RATING MAP, SET PIN, LOAD PRICE and SET CREDIT (log entry 26 on operands wider than a field). -/
def Obligations.loads_of_lock_and_prices : Prop :=
  ∀ (s : State) (t : Target) (classes : List Nat) (pin : Option PinDigits) (cls : Nat) (price : Half)
    (minutes seconds limit : Nat), Awake s → s.addressed t = true →
    let entry : Price := { price := price.toNat, rentalMinutes := minutes, previewSeconds := seconds }
    (classes.length = 16 →
      ((∃ c ∈ classes, 7 < c) → exec (.loadRatingMap t classes) s = .next (s.refuse .loadRatingMap .range))
      ∧ ((∀ c ∈ classes, c ≤ 7) → ∃ u, exec (.loadRatingMap t classes) s = .next u
          ∧ Redecided { s with lock := { s.lock with map := classes } } u))
    ∧ (∀ d, pin = some d → (9 < d.d1 ∨ 9 < d.d2 ∨ 9 < d.d3 ∨ 9 < d.d4) →
        exec (.setPin t pin) s = .next (s.refuse .setPin .range))
    ∧ (∀ d, pin = some d → d.d1 ≤ 9 → d.d2 ≤ 9 → d.d3 ≤ 9 → d.d4 ≤ 9 → ∃ u, exec (.setPin t pin) s = .next u
        ∧ Redecided { s with lock := { s.lock with pin := some d, entry := .idle } } u)
    ∧ (∃ u, exec (.setPin t none) s = .next u
        ∧ Redecided { s with
            lock := { s.lock with pin := none, entry := .idle }
            meters := if (s.meter 0).use = .unlock then s.meters.set 0 Meter.free else s.meters } u)
    ∧ (15 < cls ∨ minutes < 1 ∨ 4320 < minutes ∨ 600 < seconds ∨ cls = 0 ∧ price ≠ 0 →
        exec (.loadPrice t cls price minutes seconds) s = .next (s.refuse .loadPrice .range))
    ∧ (cls ≤ 15 → 1 ≤ minutes → minutes ≤ 4320 → seconds ≤ 600 → (cls = 0 → price = 0) →
        ∃ u, exec (.loadPrice t cls price minutes seconds) s = .next u
          ∧ Redecided { s with buying := { s.buying with prices := s.buying.prices.set cls entry } } u)
    ∧ (1000000 < limit → exec (.setCredit t limit) s = .next (s.refuse .setCredit .range))
    ∧ (limit ≤ 1000000 → exec (.setCredit t limit) s = .next { s with buying := { s.buying with credit := limit } })

/-! ## The local second and its events -/

/-- What a local second counts: the local second count, hotel time while it is set, the silence of ARMED lanes in
PASS, and each meter whose gate is open as the tick finds it, ahead of the tick's own events (log entry 27); nothing
else changes but the events it lists for commands to take (log entry 7). -/
def Obligations.local_second_counts : Prop :=
  ∀ s : State, Awake s → ∃ t, exec .localSecond s = .next t ∧ t.second = s.second + 1
    ∧ (s.notices.hotelTime = none → t.notices.hotelTime = none)
    ∧ (∀ h, s.notices.hotelTime = some h → h < 4294967295 → t.notices.hotelTime = some (h + 1))
    ∧ (s.notices.hotelTime = some 4294967295 → t.notices.hotelTime = some 4294967295)
    ∧ { t.notices with hotelTime := s.notices.hotelTime } = s.notices
    ∧ (∀ i, ((s.lane i).response = .pass ∧ (s.lane i).watch = .armed →
            t.lane i = { s.lane i with silence := (s.lane i).silence + 1 })
          ∧ (¬ ((s.lane i).response = .pass ∧ (s.lane i).watch = .armed) → t.lane i = s.lane i))
    ∧ (∀ i, let counts := (s.meter i).use ≠ .free ∧ (s.meter i).hold = none ∧
            ((s.meter i).gating = some .wall ∨ (s.meter i).gating = some .viewing ∧ ∃ e p, s.tunedEntry = some e
              ∧ s.tunedCurrent = some p ∧ s.composer.decision = some .show ∧ (s.meter i).programme = some p.id
              ∧ (s.lane e.picture).watch ≠ .lost)
          (counts → t.meter i = { s.meter i with count := (s.meter i).count + 1 })
          ∧ (¬ counts → t.meter i = s.meter i))
    ∧ { t with second := s.second, notices := s.notices, lanes := s.lanes, meters := s.meters, due := [] } = s

/-- Which events a local second lists, from what it has counted (log entry 7 on their being listed). With watch code 0
the silence count of 1 is the interval, and lists STREAM_LOST (log entry 39). -/
def Obligations.local_second_lists_its_events : Prop :=
  ∀ s : State, Awake s → s.composer.channels.length = 48 → ∃ t, exec .localSecond s = .next t
    ∧ (∀ i, .streamLost i ∈ t.due ↔ (t.lane i).response = .pass ∧ (t.lane i).watch = .armed
        ∧ (t.lane i).interval ≤ (t.lane i).silence)
    ∧ (∀ i, .keyWaitExpiry i ∈ t.due ↔ ∃ start k p, (t.lane i).keyStatus = .keywait start k p
        ∧ 3 ≤ elapsed start t.second)
    ∧ (∀ n, .programmeSwap n ∈ t.due ↔ ∃ i e h x, t.entryAt i = some e ∧ e.number = n ∧ t.notices.hotelTime = some h
        ∧ (t.noticeAt i).next = some x ∧ x.start ≤ h)
    ∧ (∀ n, .programmeEnd n ∈ t.due ↔ ∃ i e h c, t.entryAt i = some e ∧ e.number = n ∧ t.notices.hotelTime = some h
        ∧ (t.noticeAt i).current = some c ∧ c.stop ≤ h ∧ ∀ x, (t.noticeAt i).next = some x → h < x.start)
    ∧ (.pinEntryTimeout ∈ t.due ↔ ∃ k, t.lock.entry.lastKey = some k ∧ 5 ≤ elapsed k t.second)
    ∧ (.channelEntryTimeout ∈ t.due ↔ t.keypad.digits ≠ [] ∧ ∃ k, t.keypad.lastKeySecond = some k
        ∧ 2 ≤ elapsed k t.second)
    ∧ (.cutAllowanceEnd ∈ t.due ↔ ∃ start, t.composer.output = .cutting start ∧ 2 ≤ elapsed start t.second)
    ∧ (.refusalExpiry ∈ t.due ↔ ∃ r, t.buying.refusal = some r ∧ r.expiry = t.second)
    ∧ (∀ i, .terminal i ∈ t.due ↔ t.meter i ≠ s.meter i ∧ (t.meter i).period = some (t.meter i).count
        ∧ (t.meter i).buffered = none)
    ∧ (∀ i, .extended i ∈ t.due ↔ t.meter i ≠ s.meter i ∧ (t.meter i).period = some (t.meter i).count
        ∧ (t.meter i).buffered ≠ none)
    ∧ (∀ i, .compare i ∈ t.due ↔ t.meter i ≠ s.meter i ∧ (t.meter i).period ≠ some (t.meter i).count
        ∧ (t.meter i).compare1 = some (t.meter i).count)

/-- STREAM_LOST and KEY_WAIT_EXPIRY of a lane; a LOST lane keeps its silence count (log entry 22), and with watch code 0
it is LOST at the count of 1 (log entry 39). -/
def Obligations.lost_stream_and_expired_key_wait : Prop :=
  ∀ (s : State) (i : Nat), s.powered = true →
    let l := s.lane i
    let after (e : TickEvent) : State := { s with due := s.due.erase e }
    (∀ c, .streamLost i ∈ s.due → l.response = .pass → l.watch = .armed → l.config = some c →
        2 ^ c.watchCode ≤ l.silence → ∃ u, exec (.streamLost i) s = .next u
          ∧ Redecided (State.raise .streamLost ((after (.streamLost i)).setLane i
              { l with watch := .lost, expected := none, area := [],
                       keyStatus := (match l.keyStatus with | .keywait _ _ _ => .keyless | k => k) })) u)
    ∧ (∀ start k p, .keyWaitExpiry i ∈ s.due → l.keyStatus = .keywait start k p → 3 ≤ elapsed start s.second →
        ∃ u, exec (.keyWaitExpiry i) s = .next u
          ∧ Redecided (State.raise .keyMiss ((after (.keyWaitExpiry i)).setLane i
              { l with keyStatus := .keyless, area := l.area.filter fun c => !c.held,
                       keyMisses := min 65535 (l.keyMisses + (l.area.filter (·.held)).length) })) u)

/-- PROGRAMME_SWAP and PROGRAMME_END of a channel, and what a change of programme does: a RUNNING preview bound to the
channel ends, its meter released and its record asked to be PREVIEWED, and a refusal on the channel is removed, before
the view decision is taken (log entry 35). -/
def Obligations.swap_and_end_change_the_programme : Prop :=
  ∀ (s : State) (n i h : Nat), s.powered = true → s.entryIndex n = some i → s.notices.hotelTime = some h →
    let old := s.noticeAt i
    let changed (ev : TickEvent) (cmd : Instr) (new : NoticeEntry) : Prop := ∃ u v, exec cmd s = .next v
        ∧ Redecided u v
      ∧ u.notices = { s.notices with entries := s.notices.entries.set i new } ∧ u.due = s.due.erase ev
      ∧ { u with notices := s.notices, due := s.due, buying := s.buying, meters := s.meters, store := s.store } = s
      ∧ (old.current.map (·.id) = new.current.map (·.id) →
          u.buying = s.buying ∧ u.meters = s.meters ∧ u.store = s.store)
      ∧ (old.current.map (·.id) ≠ new.current.map (·.id) → ProgrammeChanged s u n)
    (∀ x, .programmeSwap n ∈ s.due → old.next = some x → x.start ≤ h →
        changed (.programmeSwap n) (.programmeSwap n) { current := some x, next := none })
    ∧ (∀ c, .programmeEnd n ∈ s.due → old.current = some c → c.stop ≤ h → (∀ x, old.next = some x → h < x.start) →
        changed (.programmeEnd n) (.programmeEnd n) { old with current := none })

/-- PIN_ENTRY_TIMEOUT, CHANNEL_ENTRY_TIMEOUT, CUT_ALLOWANCE_END and REFUSAL_EXPIRY. -/
def Obligations.timeouts_end_what_waits : Prop :=
  ∀ s : State, s.powered = true →
    let after (e : TickEvent) : State := { s with due := s.due.erase e }
    (∀ k, .pinEntryTimeout ∈ s.due → s.lock.entry.lastKey = some k → 5 ≤ elapsed k s.second →
        exec .pinEntryTimeout s =
          .next { after .pinEntryTimeout with lock := { s.lock with entry := .idle } })
    ∧ (∀ k, .channelEntryTimeout ∈ s.due → s.keypad.digits ≠ [] → s.keypad.lastKeySecond = some k →
        2 ≤ elapsed k s.second → ∃ u, exec .channelEntryTimeout s = .next u
          ∧ Selects { after .channelEntryTimeout with keypad := { s.keypad with digits := [] } } u
              (Nat.ofDigits 10 s.keypad.digits.reverse))
    ∧ (∀ e start k, .cutAllowanceEnd ∈ s.due → s.composer.output = .cutting start → 2 ≤ elapsed start s.second →
        s.tunedEntry = some e → s.composer.decision = some (.slate k) → (s.viewDecision e).1 = .slate k →
        ∃ u, exec .cutAllowanceEnd s = .next u ∧ u.composer = { s.composer with output := .slate k none 0 }
          ∧ u.reply = s.reply ∧ u.notices = s.notices ∧ u.keypad = s.keypad)
    ∧ (∀ r, .refusalExpiry ∈ s.due → s.buying.refusal = some r → r.expiry = s.second →
        ∃ u, exec .refusalExpiry s = .next u
          ∧ Redecided { after .refusalExpiry with buying := { s.buying with refusal := none } } u)

/-- COMPARE, EXTENDED and TERMINAL of a meter, and what each owner does. -/
def Obligations.meter_events_reach_their_owners : Prop :=
  ∀ (s : State) (i : Nat), s.powered = true →
    let m := s.meter i
    let after (e : TickEvent) : State := { s with due := s.due.erase e }
    let freed : State := { after (.terminal i) with meters := s.meters.set i Meter.free }
    let moved (b : Nat) (r : Rental) : Rental :=
      if r.meter = i then { r with endTime := min (r.endTime + b) 4294967295 } else r
    let ends := .terminal i ∈ s.due ∧ m.period = some m.count ∧ m.buffered = none
    (.compare i ∈ s.due → m.period ≠ some m.count → m.compare1 = some m.count →
        exec (.compare i) s = .next ((after (.compare i)).raise .rentalEnding))
    ∧ (∀ b, .extended i ∈ s.due → m.period = some m.count → m.buffered = some b →
        ∃ u, exec (.extended i) s = .next u ∧ Redecided
          { after (.extended i) with
            meters := s.meters.set i { m with count := 0, period := some b, buffered := none,
                                              compare1 := if 600 < b then some (b - 600) else none }
            buying := { s.buying with rentals := s.buying.rentals.map (moved b) } } u)
    ∧ (ends → m.use = .unlock → ∃ u, exec (.terminal i) s = .next u ∧ Redecided freed u)
    ∧ (ends → m.use = .lockout → ∃ u, exec (.terminal i) s = .next u
        ∧ Redecided { freed with lock := { s.lock with wrongCount := 0 } } u)
    ∧ (ends → m.use = .rental → ∃ u, exec (.terminal i) s = .next u
        ∧ Redecided (State.raise .rentalExpired
            { freed with buying := { s.buying with rentals := s.buying.rentals.filter (fun r => r.meter != i) } }) u)
    ∧ (∀ p as bs, ends → m.use = .preview → s.buying.previews = as ++ p :: bs →
        (∀ q ∈ as, ¬ (q.meter = i ∧ q.state = .running)) → p.meter = i → p.state = .running →
        let others := s.buying.previews.filter fun q => q.programme != p.programme
        let without : State := { freed with buying := { s.buying with previews := others } }
        let marking : QueuedOp := { op := .advance p.record .previewed, retried := false }
        ∃ u, exec (.terminal i) s = .next u ∧
          (s.store.fault = true ∨ s.store.closing = true ∨ s.store.awaitingScan = true →
            Redecided (State.raise .previewEnded without) u)
          ∧ (s.store.fault = false → s.store.closing = false → s.store.awaitingScan = false →
              8 ≤ s.store.queue.length → Redecided (State.raise .previewEnded
                { without with buying := { without.buying with marking := s.buying.marking ++ [p.record] } }) u)
          ∧ (s.store.fault = false → s.store.closing = false → s.store.awaitingScan = false →
              s.store.queue.length < 8 → Redecided (State.raise .previewEnded
                { without with store := { s.store with queue := s.store.queue ++ [marking] } }) u))

/-! ## The guest keypad -/

/-- The keypad line: errors are counted, a first byte waits, and a second byte makes a frame whose command is acted
on. A bad frame commanded whole clears a pending first byte too (log entry 16). -/
def Obligations.keypad_bytes_form_frames : Prop :=
  ∀ (s : State) (b : Byte), Awake s →
    let erred : State :=
      { s with keypad := { s.keypad with errors := countUp s.keypad.errors, firstByte := none } }
    exec .framingError s = .next erred
    ∧ exec .badFrame s = .next erred
    ∧ (s.keypad.firstByte = none → exec .firstByteExpiry s = .next s)
    ∧ (s.keypad.firstByte ≠ none → exec .firstByteExpiry s = .next erred)
    ∧ (s.keypad.firstByte = none →
        exec (.firstByteReceived b) s = .next { s with keypad := { s.keypad with firstByte := some b } })
    ∧ ∀ a, s.keypad.firstByte = some a →
        let good := (a.toNat / 16 + a.toNat % 16 + b.toNat / 16) % 16 = b.toNat % 16
        (¬ good → exec (.firstByteReceived b) s = .next erred)
        ∧ (good → exec (.firstByteReceived b) s =
            exec (keyCommand (a.toNat % 128) (decide (128 ≤ a.toNat))) s)

/-- A held frame acts only as a CH+ or CH− that repeats the last key, and a code 17..127 names no key: such a frame is
the last key, resets both timeouts and does nothing else, but that a frame commanded whole clears a pending first byte
(log entry 16). So does a frame of any key that arrives together with a RESTART taken first; that it is the one
commanded next after it is log entry 44. -/
def Obligations.held_and_unassigned_frames_only_touch : Prop :=
  ∀ (s : State) (code : Nat) (held : Bool), s.powered = true → s.due = [] → code ≤ 127 →
    s.keypad.restarted = true
      ∨ (17 ≤ code ∨ held = true ∧ ¬ ((code = 11 ∨ code = 12) ∧ s.keypad.lastKey = some code)) →
    exec (keyCommand code held) s = .next (s.keyed code s.keypad.digits)
      ∧ (s.keyed code s.keypad.digits).lock.entry =
        match s.lock.entry with
        | .idle => .idle
        | .rateDigit _ => .rateDigit s.second
        | .unlock n ds _ => .unlock n ds s.second
        | .raise target ds _ => .raise target ds s.second

/-- Channel entry and stepping: digits collect to three, ENTER completes fewer, CH+ and CH− go to the next channel
number of the table, and each names its channel. -/
def Obligations.digits_enter_and_steps_name_a_channel : Prop :=
  ∀ s : State, Awake s →
    let ds := s.keypad.digits
    let number (ds : List Nat) : Nat := Nat.ofDigits 10 ds.reverse
    let listed (n : Nat) : Prop := ∃ e, some e ∈ s.composer.channels ∧ e.number = n
    (∀ d : Fin 10, s.lock.entry = .idle → s.composer.decision ≠ some (.slate .pin) →
        (ds.length < 2 → exec (.digit d false) s = .next (s.keyed d (ds ++ [d.val])))
        ∧ (2 ≤ ds.length → ∃ u, exec (.digit d false) s = .next u
            ∧ Selects (s.keyed d []) u (number (ds ++ [d.val]))))
    ∧ (ds = [] → exec (.enter false) s = .next (s.keyed 10 []))
    ∧ (ds ≠ [] → ∃ u, exec (.enter false) s = .next u ∧ Selects (s.keyed 10 []) u (number ds))
    ∧ (∀ held, held = false ∨ s.keypad.lastKey = some 11 →
        ((∀ k, ¬ listed k) → exec (.chPlus held) s = .next (s.keyed 11 []))
        ∧ ∀ m, listed m → ((∃ t, s.composer.tuned = some t ∧ t < m ∧ ∀ k, listed k → t < k → m ≤ k)
              ∨ (∀ t, s.composer.tuned = some t → ∀ k, listed k → k ≤ t) ∧ ∀ k, listed k → m ≤ k) →
            ∃ u, exec (.chPlus held) s = .next u ∧ Selects (s.keyed 11 []) u m)
    ∧ ∀ held, held = false ∨ s.keypad.lastKey = some 12 →
        ((∀ k, ¬ listed k) → exec (.chMinus held) s = .next (s.keyed 12 []))
        ∧ ∀ m, listed m → ((∃ t, s.composer.tuned = some t ∧ m < t ∧ ∀ k, listed k → k < t → k ≤ m)
              ∨ (∀ t, s.composer.tuned = some t → ∀ k, listed k → t ≤ k) ∧ ∀ k, listed k → k ≤ m) →
            ∃ u, exec (.chMinus held) s = .next u ∧ Selects (s.keyed 12 []) u m

/-- PIN entry: RATE and its digit, the four digits of an UNLOCK or a RAISE, their match and their mismatch. -/
def Obligations.rate_and_pin_digits : Prop :=
  ∀ (s : State) (d : Fin 10), Awake s →
    let k := s.keyed d []
    let noPin := s.lock.pin = none ∨ (s.meter 0).use = .lockout
    let four (ds : List Nat) := s.lock.pin.map pinList = some (ds ++ [d.val])
    let window (use : MeterUse) (period : Nat) : Meter := { Meter.free with use := use, period := some period
                                                                            gating := some .wall }
    let runs (t : State) := exec (.digit d false) s = .next t
    let redecides (t : State) := ∃ u, exec (.digit d false) s = .next u ∧ Redecided t u
    exec (.rate false) s = .next { s.keyed 16 [] with lock := { s.lock with entry := .rateDigit s.second } }
    ∧ (∀ j, s.lock.entry = .rateDigit j →
        (d.val ≤ s.lock.g → redecides { k with lock := { s.lock with entry := .idle, g := d.val } })
        ∧ (s.lock.g < d.val → noPin → runs { k with lock := { s.lock with entry := .idle } })
        ∧ (s.lock.g < d.val → ¬ noPin → runs { k with lock := { s.lock with entry := .raise d.val [] s.second } }))
    ∧ (s.lock.entry = .idle → s.composer.decision = some (.slate .pin) →
        ∀ n, s.composer.tuned = some n →
          (¬ noPin → runs { k with lock := { s.lock with entry := .unlock n [d.val] s.second } })
          ∧ (noPin → runs k))
    ∧ (∀ n ds j, s.lock.entry = .unlock n ds j →
        (ds.length < 3 → runs { k with lock := { s.lock with entry := .unlock n (ds ++ [d.val]) s.second } })
        ∧ (3 ≤ ds.length → four ds → redecides
            { k with lock := { s.lock with entry := .idle, wrongCount := 0 }
                     meters := s.meters.set 0 (window .unlock (s.lock.unlockMinutes * 60)) }))
    ∧ (∀ target ds j, s.lock.entry = .raise target ds j →
        (ds.length < 3 → runs { k with lock := { s.lock with entry := .raise target (ds ++ [d.val]) s.second } })
        ∧ (3 ≤ ds.length → four ds → redecides
            { k with lock := { s.lock with entry := .idle, wrongCount := 0, g := min target s.lock.stayF } }))
    ∧ (∀ ds j, ((∃ n, s.lock.entry = .unlock n ds j) ∨ ∃ target, s.lock.entry = .raise target ds j) →
        3 ≤ ds.length → ¬ four ds →
        (s.lock.wrongCount < 2 →
            runs { k with lock := { s.lock with entry := .idle, wrongCount := s.lock.wrongCount + 1 } })
        ∧ (2 ≤ s.lock.wrongCount → redecides (State.raise .lockout
            { k with lock := { s.lock with entry := .idle, wrongCount := s.lock.wrongCount + 1 }
                     meters := s.meters.set 0 (window .lockout 900) })))

/-- CANCEL goes to PIN entry, else to the channel entry, else ends a RUNNING preview that is shown; LOCK ends a PIN
entry and closes an open unlock window. -/
def Obligations.cancel_and_lock_keys : Prop :=
  ∀ s : State, Awake s →
    let k (ds : List Nat) := s.keyed 14 ds
    (s.lock.entry ≠ .idle →
      exec (.cancel false) s = .next { k s.keypad.digits with lock := { s.lock with entry := .idle } })
    ∧ (s.lock.entry = .idle → s.keypad.digits ≠ [] → exec (.cancel false) s = .next (k []))
    ∧ (s.lock.entry = .idle → s.keypad.digits = [] →
        (s.composer.decision ≠ some .show ∨ s.tunedCurrent = none → exec (.cancel false) s = .next (k []))
        ∧ ∀ p, s.composer.decision = some .show → s.tunedCurrent = some p →
            (s.runningPreview p.id = none → exec (.cancel false) s = .next (k []))
            ∧ ∀ q, s.runningPreview p.id = some q →
                let m := s.meter q.meter
                let others := s.buying.previews.filter fun x => x.programme != p.id
                let ended : State :=
                  { k [] with
                    meters := if m.programme = some p.id ∨ m.hold = some p.id then s.meters.set q.meter Meter.free
                              else s.meters
                    buying := { s.buying with previews := others } }
                ∃ u, exec (.cancel false) s = .next u ∧ Redecided (ended.markPreviewed q.record) u)
    ∧ ∃ u, exec (.lock false) s = .next u ∧ Redecided
        { s.keyed 15 [] with
          lock := { s.lock with entry := .idle }
          meters := if (s.meter 0).use = .unlock then s.meters.set 0 Meter.free else s.meters } u

/-! ## Buying -/

/-- The charge of a BUY in its four steps, the credit check, and the sums they read: the folio total and the day
charges over the charged records of the current folio (none once a close is resumed), the pending charges over the
commits not yet programmed, and the hotel day index. -/
def Obligations.charge_rule : Prop :=
  ∀ (s : State) (price : Nat),
    let day (time : Nat) : Int := ((time : Int) - 3600 * s.buying.dayStart) / 86400
    let charged (sl : Slot) : Prop := s.store.resumed = false ∧ sl.opened = true ∧ sl.folio = some s.store.folio
      ∧ (sl.state = .committed ∨ sl.state = .reported ∨ sl.state = .settled)
    let today (sl : Slot) : Prop := ∃ t h, sl.commitTime = some t ∧ s.notices.hotelTime = some h ∧ day t = day h
    let sumIs (total : Nat) (counts : Slot → Prop) : Prop := ∃ f : Nat → Nat, total = ((List.range' 1 256).map f).sum
      ∧ ∀ n, (counts (s.store.slot n) → f n = (s.store.slot n).charge.getD 0) ∧ (¬ counts (s.store.slot n) → f n = 0)
    let tax := (price * s.buying.taxRate + 5000) / 10000
    let gross := price + tax
    let capped : Int := if 0 < s.buying.dayCap then max 0 (min (gross : Int)
        (s.buying.dayCap - s.dayCharges)) else gross
    (s.chargeNow price : Int) = min capped 81918
    ∧ (0 < s.buying.dayCap → s.chargeNow price ≤ s.buying.dayCap - s.dayCharges)
    ∧ (s.creditAllows (s.chargeNow price) = true ↔
        s.store.folioTotal + s.pendingCharges + s.chargeNow price ≤ s.buying.credit)
    ∧ s.hotelDayIndex = s.notices.hotelTime.map day
    ∧ s.pendingCharges =
        (s.buying.commits.map fun c => if (s.store.slot c.record).committed = true then 0 else c.charge).sum
    ∧ (Sized s → sumIs s.store.folioTotal charged ∧ sumIs s.dayCharges fun sl => charged sl ∧ today sl)

/-- A BUY that is not acted on, one that is refused with its slate for five seconds, and one that is accepted: of the
RUNNING preview, or direct. A preview of a programme that has become free is not bought (log entry 24). -/
def Obligations.buy_is_ignored_refused_or_accepted : Prop :=
  ∀ s : State, Awake s →
    let k := s.keyed 13 []
    (s.composer.decision ≠ some (.slate .offer) → s.composer.decision ≠ some .show →
      exec (.buy false) s = .next k)
    ∧ ((∀ n p, s.composer.tuned = some n → s.current n = some p → s.priceOf p = 0) → exec (.buy false) s = .next k)
    ∧ ∀ n p, s.composer.tuned = some n → s.current n = some p → s.priceOf p ≠ 0 →
        (s.composer.decision = some .show → s.runningPreview p.id = none → exec (.buy false) s = .next k)
        ∧ (s.composer.decision = some (.slate .offer)
            ∨ s.composer.decision = some .show ∧ s.runningPreview p.id ≠ none →
          let charge := s.chargeNow (s.priceOf p)
          let waits := s.store.state = .busy ∨ s.store.closing = true ∨ 8 ≤ s.store.queue.length
          let closed := s.buying.billing = false ∨ s.notices.hotelTime = none ∨ s.store.state = .full
            ∨ s.store.state = .faulted ∨ s.runningPreview p.id = none ∧ s.freeMeter = none
          let poor := s.buying.credit < s.store.folioTotal + s.pendingCharges + charge
          let refusal (slate : Slate) : BuyRefusal :=
            { slate := slate, programme := p.id, channel := n, expiry := s.second + 5 }
          let refuses (slate : Slate) := ∃ u, exec (.buy false) s = .next u
            ∧ Redecided { k with buying := { s.buying with refusal := some (refusal slate) } } u
          (waits → refuses .wait)
          ∧ (¬ waits → closed → refuses .unavailable)
          ∧ (¬ waits → ¬ closed → poor → refuses .credit)
          ∧ (¬ waits → ¬ closed → ¬ poor → ∀ h, s.notices.hotelTime = some h →
              let fields : CommitFields :=
                { price := s.priceOf p, tax := taxOf (s.priceOf p) s.buying.taxRate, charge := charge, time := h }
              (∀ q, s.runningPreview p.id = some q →
                let m := s.meter q.meter
                let held := m.use = .preview ∧ m.programme = some p.id ∧ m.hold = none
                let bought (x : Preview) : Preview := if x.programme = p.id then { x with state := .buying } else x
                let commit : Commit := { programme := p.id, record := q.record, meter := q.meter, charge := charge,
                                         time := h, kind := .fromPreview }
                let op : QueuedOp := { op := .advance q.record (.committed fields), retried := false }
                ∃ u, exec (.buy false) s = .next u ∧ Redecided
                  { k with
                    meters := if held then s.meters.set q.meter { m with hold := some p.id } else s.meters
                    buying := { s.buying with previews := s.buying.previews.map bought,
                                              commits := s.buying.commits ++ [commit] }
                    store := { s.store with queue := s.store.queue ++ [op] } } u)
              ∧ (∀ i, s.runningPreview p.id = none → s.freeMeter = some i →
                let record : NewRecord :=
                  { folio := s.store.folio, number := s.store.nextRecord, programme := p.id, channel := n,
                    priceClass := p.priceClass, minutes := (s.priceEntry p.priceClass).rentalMinutes,
                    commit := some fields }
                let commit : Commit := { programme := p.id, record := s.store.nextRecord, meter := i, charge := charge,
                                         time := h, kind := .direct }
                ∃ u, exec (.buy false) s = .next u ∧ Redecided
                  { k with
                    meters := s.meters.set i { Meter.free with hold := some p.id }
                    buying := { s.buying with commits := s.buying.commits ++ [commit] }
                    store := { s.store with nextRecord := s.store.nextRecord + 1,
                                            queue := s.store.queue ++ [{ op := .append record, retried := false }] } }
                  u)))

/-! ## The output -/

/-- What an output slot sends and takes, by output state. A cell the arbiter takes is the oldest clear one of a tuned
lane in PASS that was accepted first (acceptance order is the model's stamp, log entry 6). One slot of WAITING_START
takes every cell offered up to the start mark, which that slot sends (log entry 21); the cell sent is read from the
port (log entry 28). -/
def Obligations.output_slot_by_output_state : Prop :=
  ∀ s : State, Awake s → ∃ t, exec .outputSlot s = .next t
    ∧ { t with lanes := s.lanes, composer := s.composer } = s
    ∧ { t.composer with output := s.composer.output, port := s.composer.port } = s.composer
    ∧ (∀ i, { t.lane i with area := (s.lane i).area } = s.lane i ∧ (t.lane i).area <:+ (s.lane i).area)
    ∧ (∀ i, s.tunedLane i = false → t.lane i = s.lane i)
    ∧ (s.composer.output = .none → t.composer = { s.composer with port := Cell.null } ∧ t.lanes = s.lanes)
    ∧ (∀ k last seq, s.composer.output = .slate k last seq →
        let ready (p : Nat) (h : SlateHeader) (b : List Byte) := p < 4 ∧ s.slatePosition k p = .ready h b
        t.lanes = s.lanes
          ∧ ((∀ p h b, ¬ ready p h b) → t.composer = { s.composer with port := Cell.null })
          ∧ ∀ p h b, ready p h b →
              ((∀ l, last = some l → l < p) ∧ (∀ q h' b', ready q h' b' → (∀ l, last = some l → l < q) → p ≤ q)
                ∨ (∃ l, last = some l ∧ ∀ q h' b', ready q h' b' → q ≤ l ∧ p ≤ q)) →
              t.composer = { s.composer with port := s.slateCell h b seq
                                             output := .slate k (some p) ((seq + 1) % 16) })
    ∧ ∀ e, s.tunedEntry = some e →
        let oldest (i : Nat) (x : AreaCell) := e.names i = true ∧ (s.lane i).response = .pass
          ∧ (s.lane i).area.head? = some x ∧ x.held = false
        (s.composer.output = .showing ∨ (∃ c, s.composer.output = .cutting c) →
          ((∀ i x, ¬ oldest i x) → t.composer = { s.composer with port := Cell.null } ∧ t.lanes = s.lanes)
          ∧ ∀ i x, oldest i x → (∀ j y, oldest j y → j ≠ i → x.order < y.order) →
              ¬ (i = e.picture ∧ x.cell.start = true ∧ s.composer.output ≠ .showing) →
              t.composer.port = x.cell ∧ (t.lane i).area <:+ (s.lane i).area.tail
                ∧ (s.composer.output = .showing → t.composer.output = .showing
                    ∧ (t.lane i).area = (s.lane i).area.tail ∧ ∀ j, j ≠ i → t.lane j = s.lane j)
                ∧ (t.composer.output = s.composer.output ∨
                    ∃ k, s.composer.decision = some (.slate k) ∧ t.composer.output = .slate k none 0)
                ∧ ∀ c k, s.composer.output = .cutting c → s.composer.decision = some (.slate k) →
                    let taken := s.setLane i { s.lane i with area := (s.lane i).area.tail }
                    (StartMarkNext taken e → t.composer.output = .slate k none 0
                        ∧ ∀ j, e.names j = true → (t.lane j).area = (taken.lane j).undiscarded)
                      ∧ (¬ StartMarkNext taken e → t.composer.output = .cutting c ∧ t.lanes = taken.lanes))
        ∧ (s.composer.output = .waitingStart →
            (∀ as x bs, (s.lane e.picture).response = .pass → (s.lane e.picture).area = as ++ x :: bs →
              (∀ c ∈ as, c.held = false ∧ c.cell.start = false) → x.held = false → x.cell.start = true →
              t.composer.port = x.cell ∧ t.composer.output = .showing ∧ (t.lane e.picture).area = bs
                ∧ ∀ i, e.sound = some i → i ≠ e.picture → (s.lane i).response = .pass → (t.lane i).area =
                    (s.lane i).area.dropWhile fun c => !c.held && decide (c.order < x.order))
            ∧ ((s.lane e.picture).response ≠ .pass
                ∨ (∀ c ∈ (s.lane e.picture).area.takeWhile (fun c => !c.held), c.cell.start = false) →
              t.composer = { s.composer with port := Cell.null }
                ∧ ∀ i, (t.lane i).area = if e.names i = true ∧ (s.lane i).response = .pass
                    then (s.lane i).area.dropWhile (fun c => !c.held) else (s.lane i).area))

/-- A slate cell as emitted: the position's own payload, but for the eight characters of each fill field; and the text
of each fill kind: charges and credit left as dollars and cents, minutes as hours to a tenth, preview seconds left, an
asterisk for each PIN digit, the channel number, and nothing for an absent value. -/
def Obligations.slate_cell_carries_its_fill_fields : Prop :=
  (∀ s : State,
    let numeral (n : Nat) : List Byte :=
      if n = 0 then [0x30] else (Nat.digits 10 n).reverse.map fun d => BitVec.ofNat 8 (48 + d)
    let money (n : Nat) : List Byte :=
      numeral (n / 100) ++ [0x2E, BitVec.ofNat 8 (48 + n / 10 % 10), BitVec.ofNat 8 (48 + n % 10)]
    let tenths (n : Nat) : List Byte := numeral (n / 10) ++ [0x2E, BitVec.ofNat 8 (48 + n % 10)]
    let free := ∀ p, s.tunedCurrent = some p → s.priceOf p = 0
    let previews (p : Programme) (m : Meter) : Prop := m.use = .preview ∧ m.programme = some p.id
    (∀ p, s.tunedCurrent = some p → s.priceOf p ≠ 0 → s.fillText .price = money (s.chargeNow (s.priceOf p))
        ∧ ((s.priceEntry p.priceClass).rentalMinutes ≤ 4320 → s.fillText .rentalHours =
            tenths (((s.priceEntry p.priceClass).rentalMinutes * 10 + 30) / 60)))
      ∧ (free → s.fillText .price = [] ∧ s.fillText .rentalHours = [])
      ∧ (∀ p as m bs seconds, s.tunedCurrent = some p → s.meters = as ++ m :: bs → previews p m →
          (∀ x ∈ as, ¬ previews p x) → m.period = some seconds → seconds ≤ 600 →
          s.fillText .previewLeft = numeral (seconds - m.count))
      ∧ ((∀ p, s.tunedCurrent = some p → ∀ m ∈ s.meters, ¬ previews p m) → s.fillText .previewLeft = [])
      ∧ (s.buying.credit ≤ 1000000 → s.fillText .creditLeft =
          money (s.buying.credit - (s.store.folioTotal + s.pendingCharges)))
      ∧ (∀ ds k, ((∃ n, s.lock.entry = .unlock n ds k) ∨ ∃ n, s.lock.entry = .raise n ds k) →
          s.fillText .pinMask = List.replicate ds.length 0x2A)
      ∧ ((s.lock.entry = .idle ∨ ∃ k, s.lock.entry = .rateDigit k) → s.fillText .pinMask = [])
      ∧ (∀ n, s.composer.tuned = some n → n ≤ 999 → s.fillText .channel = numeral n)
      ∧ (s.composer.tuned = none → s.fillText .channel = []))
  ∧ ∀ (s : State) (h : SlateHeader) (b : List Byte) (seq : Nat), b.length = 120 → h.length ≤ 120 →
    (∀ f ∈ h.fills, f.offset + 8 ≤ h.length ∧ (s.fillText f.kind).length ≤ 8) →
    h.fills.Pairwise (fun f g => f.offset + 8 ≤ g.offset ∨ g.offset + 8 ≤ f.offset) →
    let c := s.slateCell h b seq
    c.stream = h.stream ∧ c.seq = seq ∧ c.mark = .clear ∧ c.start = h.start ∧ c.length = h.length
      ∧ c.payload.length = 120
      ∧ (∀ i, i < 120 → (∀ f ∈ h.fills, i < f.offset ∨ f.offset + 8 ≤ i) → c.payload.getD i 0 = b.getD i 0)
      ∧ ∀ f ∈ h.fills, ∀ j, j < 8 → c.payload.getD (f.offset + j) 0 =
          (if j < 8 - (s.fillText f.kind).length then 0x20
           else (s.fillText f.kind).getD (j - (8 - (s.fillText f.kind).length)) 0)

/-- LOAD SLATE: a header section makes a position EMPTY or BUILDING, and the third payload section makes it READY
(log entry 26 on operands wider than a field, log entry 41 on the start-mark byte). -/
def Obligations.slate_sections_build_a_position : Prop :=
  ∀ (s : State) (t : Target) (kind position sect : Nat) (f : SlateHeaderFields) (bytes : List Byte),
    Meant s t .loadSlate →
    let header := exec (.loadSlateHeader t kind position f) s
    let payload := exec (.loadSlatePayload t kind position sect bytes) s
    let inTable := kind ≤ 8 ∧ position ≤ 3
    let fill (offset code : Nat) := code ≤ 5 ∧ offset + 8 ≤ f.length
    let inRange := f.form = 0 ∧ f.stream ≤ 4079 ∧ f.startMark ≤ 1 ∧ f.length ≤ 120 ∧ f.fillCount ≤ 2
      ∧ (1 ≤ f.fillCount → fill f.offset1 f.kind1) ∧ (2 ≤ f.fillCount → fill f.offset2 f.kind2)
    let overlap := f.fillCount = 2 ∧ f.offset1 < f.offset2 + 8 ∧ f.offset2 < f.offset1 + 8
    let kinds : List FillKind := [.price, .rentalHours, .previewLeft, .creditLeft, .pinMask, .channel]
    let fills : List FillField := ([(f.offset1, f.kind1), (f.offset2, f.kind2)].take f.fillCount).map fun x =>
      { offset := x.1, kind := kinds.getD x.2 .price }
    let becomes (p : SlatePosition) : State :=
      { s with composer := { s.composer with slates := s.composer.slates.set (4 * kind + position) p } }
    (¬ inTable ∨ f.form ≠ 1 ∧ ¬ inRange → header = .next (s.refuse .loadSlate .range))
    ∧ (inTable → inRange → overlap → header = .next (s.refuse .loadSlate .conflict))
    ∧ (inTable → f.form = 1 → header = .next (becomes .empty))
    ∧ (inTable → inRange → ¬ overlap → header = .next (becomes
        (.building { stream := f.stream, start := f.startMark == 1, length := f.length, fills := fills } none none none)))
    ∧ (¬ inTable ∨ 2 < sect → payload = .next (s.refuse .loadSlate .range))
    ∧ (inTable → sect ≤ 2 → (∀ h a b c, s.composer.slates.getD (4 * kind + position) .empty ≠ .building h a b c) →
        payload = .next (s.refuse .loadSlate .state))
    ∧ ∀ h a b c, inTable → sect ≤ 2 → s.composer.slates.getD (4 * kind + position) .empty = .building h a b c →
        let a' := if sect = 0 then some bytes else a
        let b' := if sect = 1 then some bytes else b
        let c' := if sect = 2 then some bytes else c
        (∀ x y z, a' = some x → b' = some y → c' = some z → payload = .next (becomes (.ready h (x ++ y ++ z))))
        ∧ (a' = none ∨ b' = none ∨ c' = none → payload = .next (becomes (.building h a' b' c')))

/-! ## Time beacons and notices -/

/-- A time beacon sets hotel time, whatever it was; the first one hands on the restoration of rentals, which comes before
the view decision (log entry 42). -/
def Obligations.beacon_sets_hotel_time : Prop :=
  ∀ (s : State) (time : Word32), Awake s →
    let told : State :=
      { s with notices := { s.notices with hotelTime := some time.toNat, restorationPending := false } }
    ∃ u, exec (.timeBeacon time) s = .next u
      ∧ (s.notices.restorationPending = false → Redecided told u)
      ∧ (s.notices.restorationPending = true → s.store.awaitingScan = true →
          Redecided { told with store := { s.store with restoreWaiting := true } } u)
      ∧ (s.notices.restorationPending = true → s.store.awaitingScan = false → s.store.closing = true →
          Redecided told u)
      ∧ (s.notices.restorationPending = true → s.store.awaitingScan = false → s.store.closing = false →
          Redecided told.restoreRentals u)

/-- Rental restoration: the purchases that have not ended, one to a programme, the seven that end first, each given a
meter for what is left of it, the lowest free one, in record-number order; the other meters stay as they were. -/
def Obligations.restoration_gives_meters_to_rentals : Prop :=
  ∀ (s : State) (h : Nat), s.notices.hotelTime = some h → s.store.closing = false → s.meters.length = 8 →
    (∀ i, 1 ≤ i → i ≤ 7 → (s.meter i).use = .free ∧ (s.meter i).hold = none) →
    (∀ x ∈ s.store.records, x.1.programme ≠ none) →
    let minutes (sl : Slot) := sl.minutes.getD 0 + sl.extension.getD 0
    let ends (sl : Slot) := min (sl.commitTime.getD 0 + minutes sl * 60) 4294967295
    let qualifies (x : Slot × Nat) := x ∈ s.store.records ∧ x.1.committed = true ∧ h < ends x.1
    let best (x : Slot × Nat) := qualifies x ∧ ∀ y, qualifies y → y.1.programme = x.1.programme → y ≠ x →
      ends y.1 < ends x.1 ∨ ends y.1 = ends x.1 ∧ y.2 < x.2
    let first (y x : Slot × Nat) := ends y.1 < ends x.1 ∨ ends y.1 = ends x.1 ∧ y.2 < x.2
    let kept (x : Slot × Nat) := best x ∧ ∀ ys : List (Slot × Nat), ys.Nodup → (∀ y ∈ ys, best y ∧ first y x) →
      ys.length < 7
    let t := s.restoreRentals
    { t with meters := s.meters, buying := { t.buying with rentals := s.buying.rentals } } = s
      ∧ ∃ new, t.buying.rentals = s.buying.rentals ++ new ∧ new.Pairwise (fun r q => r.record < q.record)
        ∧ (∀ x, kept x → ∃ r ∈ new, r.record = x.2)
        ∧ (∀ j r, new[j]? = some r → r.meter = j + 1)
        ∧ (∀ i, (∀ r ∈ new, r.meter ≠ i) → t.meter i = s.meter i)
        ∧ ∀ r ∈ new, ∃ x, kept x ∧ r.record = x.2 ∧ some r.programme = x.1.programme ∧ r.endTime = ends x.1
            ∧ r.extension = (if x.1.extension = none then .none else .written) ∧ 1 ≤ r.meter ∧ r.meter ≤ 7
            ∧ t.meter r.meter =
              { use := .rental, count := 0, period := some (min (ends x.1 - h) (minutes x.1 * 60)),
                compare1 := if 600 < min (ends x.1 - h) (minutes x.1 * 60)
                  then some (min (ends x.1 - h) (minutes x.1 * 60) - 600) else none,
                buffered := none, gating := some .wall, programme := some r.programme, channel := none,
                record := some r.record, hold := none }

/-- Programme notices: an unknown channel number is discarded, a bad notice is counted, a NEXT notice replaces the
next record, and a CURRENT notice replaces the current record and drops a next one of the same programme, one that
repeats the current record included (log entry 34). A change of programme reaches the purchase unit before the view
decision is taken (log entry 35). -/
def Obligations.notices_are_checked_and_taken : Prop :=
  ∀ (s : State) (f : NoticeFields), Awake s →
    let n := f.channel.toNat
    let p : Programme := { id := f.programme.toNat, rating := f.rating.toNat, priceClass := f.priceClass.toNat,
                           start := f.start.toNat, stop := f.stop.toNat }
    let bad := p.id = 0 ∨ p.stop ≤ p.start
    let written (i : Nat) (new : NoticeEntry) : Notices :=
      { s.notices with entries := s.notices.entries.set i new }
    let counted : State := { s with notices := { s.notices with discardCount := countUp s.notices.discardCount } }
    (s.entryIndex n = none → exec (.currentNotice f) s = .next s ∧ exec (.nextNotice f) s = .next s)
    ∧ ∀ i, s.entryIndex n = some i →
        let old := s.noticeAt i
        let new : NoticeEntry :=
          { current := some p, next := if old.next.map (·.id) = some p.id then none else old.next }
        (bad → exec (.currentNotice f) s = .next counted ∧ exec (.nextNotice f) s = .next counted)
        ∧ (¬ bad → exec (.nextNotice f) s = .next { s with notices := written i { old with next := some p } })
        ∧ (¬ bad → ∃ u v, exec (.currentNotice f) s = .next v ∧ Redecided u v ∧ u.notices = written i new
            ∧ { u with notices := s.notices, buying := s.buying, meters := s.meters, store := s.store } = s
            ∧ (old.current.map (·.id) = some p.id → u = { s with notices := written i new })
            ∧ (old.current.map (·.id) ≠ some p.id → ProgrammeChanged s u n))

/-! ## The folio: extension, settlement and close -/

/-- EXTEND RENTAL and SETTLE: the checks in their order, and the operation each asks for. A range that starts at once
and finds nothing to settle has completed OK at once. -/
def Obligations.extend_rental_and_settle : Prop :=
  ∀ (s : State) (t : Target) (record minutes folio through : Nat), Meant s t .settle →
    let extend := exec (.extendRental t record minutes) s
    let settle := exec (.settle t folio through) s
    let busy := s.store.closing = true ∨ s.store.awaitingScan = true
    let full := 8 ≤ s.store.queue.length
    let inRange := 1 ≤ record ∧ record ≤ 256 ∧ 1 ≤ minutes ∧ minutes ≤ 4320
    let open_ := (∃ r ∈ s.buying.rentals, r.record = record)
      ∧ ∀ r ∈ s.buying.rentals, r.record = record → r.extension = .none
    let shut := ∀ r ∈ s.buying.rentals, r.record = record → r.extension ≠ .none
    let asked (r : Rental) : Rental := if r.record = record then { r with extension := .requested } else r
    let joins (op : StoreOp) : FolioStore :=
      { s.store with queue := s.store.queue ++ [{ op := op, retried := false }] }
    let valid := 1 ≤ folio ∧ folio ≤ 65535 ∧ 1 ≤ through ∧ through ≤ 256
    (¬ inRange → extend = .next (s.refuse .extendRental .range))
    ∧ (inRange → busy → extend = .next (s.refuse .extendRental .busy))
    ∧ (inRange → ¬ busy → shut ∨ open_ ∧ s.store.fault = true → extend = .next (s.refuse .extendRental .state))
    ∧ (inRange → ¬ busy → open_ → s.store.fault = false → full → extend = .next (s.refuse .extendRental .full))
    ∧ (inRange → ¬ busy → open_ → s.store.fault = false → ¬ full → ∃ u, extend = .next u ∧ Redecided
        { s with buying := { s.buying with rentals := s.buying.rentals.map asked }
                 store := joins (.writeExtension record minutes) } u)
    ∧ (¬ valid → settle = .next (s.refuse .settle .range))
    ∧ (valid → folio ≠ s.store.folio → settle = .next (s.refuse .settle .stale))
    ∧ (valid → folio = s.store.folio → busy → settle = .next (s.refuse .settle .busy))
    ∧ (valid → folio = s.store.folio → ¬ busy → s.store.fault = true → settle = .next (s.refuse .settle .state))
    ∧ (valid → folio = s.store.folio → ¬ busy → s.store.fault = false → full →
        settle = .next (s.refuse .settle .full))
    ∧ (valid → folio = s.store.folio → ¬ busy → s.store.fault = false → ¬ full → ∃ u, settle = .next u
        ∧ (s.store.queue = [] ∧ IdleRange s.store (.advanceRange .settled (List.range' 1 through)) → Redecided s u)
        ∧ (s.store.queue ≠ [] ∨ ¬ IdleRange s.store (.advanceRange .settled (List.range' 1 through)) →
            Redecided { s with store := joins (.advanceRange .settled (List.range' 1 through)) } u))

/-- CLOSE FOLIO: its checks, what it ends at once, and the operations it queues when none is in flight, all of them at
once (log entry 18). A force byte of 1 is yes (log entry 41). -/
def Obligations.close_folio_checks_and_effect : Prop :=
  ∀ (s : State) (t : Target) (folio force : Nat), Meant s t .closeFolio →
    let close := exec (.closeFolio t folio force) s
    let valid := 1 ≤ folio ∧ folio ≤ 65535 ∧ force ≤ 1
    let busy := s.store.closing = true ∨ s.store.awaitingScan = true
    let unsettled := (∃ x ∈ s.store.records, x.1.state ≠ .settled) ∨ ∃ q ∈ s.store.queue,
      (∃ r, q.op = .append r) ∨ (∃ n v, q.op = .advance n v) ∨ ∃ n m, q.op = .writeExtension n m
    (¬ valid → close = .next (s.refuse .closeFolio .range))
    ∧ (valid → folio ≠ s.store.folio → close = .next (s.refuse .closeFolio .stale))
    ∧ (valid → folio = s.store.folio → busy → close = .next (s.refuse .closeFolio .busy))
    ∧ (valid → folio = s.store.folio → ¬ busy → force = 0 → unsettled →
        close = .next (s.refuse .closeFolio .state))
    ∧ (valid → folio = s.store.folio → ¬ busy → (force = 1 ∨ ¬ unsettled) → ∃ u v, close = .next v ∧ Redecided u v
        ∧ u.buying = { s.buying with previews := [], commits := [], rentals := [], marking := [], refusal := none,
                                     credit := s.buying.defaultCredit }
        ∧ u.lock = { s.lock with stayF := s.lock.standingF, g := s.lock.standingF, pin := none, wrongCount := 0,
                                 entry := .idle }
        ∧ u.meters = List.replicate 8 Meter.free ∧ u.reply = s.reply ∧ u.lanes = s.lanes ∧ u.notices = s.notices
        ∧ u.keypad = s.keypad ∧ u.composer = s.composer ∧ u.management = s.management
        ∧ u.store.closing = true ∧ u.store.scanList = [] ∧ u.store.folio = s.store.folio
        ∧ u.store.page = s.store.page ∧ u.store.fault = s.store.fault
        ∧ (∀ q rest, s.store.queue = q :: rest → u.store.queue = [q] ∧ u.store.sectors = s.store.sectors)
        ∧ (s.store.queue = [] → CloseBegun s.store s.standing u.store))

/-! ## Upstream reporting -/

/-- POLL: its checks, what each form places in the reply queue, and the report marking a POLL RECORDS asks for, which
has completed OK at once where it starts at once and finds nothing to mark. -/
def Obligations.polls_build_their_frames : Prop :=
  ∀ (s : State) (t : Target) (first count lane : Nat), Meant s t .poll →
    let status (truncation : Nat) : ReplyFrame := .status
      { unitId := s.management.unitId, room := s.management.room, group := s.management.group,
        folio := s.store.folio, store := s.store.state, flags := s.reply.flags, mask := s.reply.mask,
        folioTotal := s.store.folioTotal, dayCharges := s.dayCharges, credit := s.buying.credit,
        lastRefusal := s.management.lastRefusal, refusedCount := s.management.refusedCount,
        hotelTime := s.notices.hotelTime, tuned := s.composer.tuned, decision := s.composer.decision,
        truncation := truncation }
    let l := s.lane lane
    let laneFrame : ReplyFrame := .lane
      { number := lane, config := l.config, response := l.response, watch := l.watch, silence := l.silence,
        expected := l.expected, keyStatus := l.keyStatus, tuned := s.tunedLane lane, accepted := l.accepted,
        discontinuities := l.discontinuities, overflowDrops := l.overflowDrops, keyMisses := l.keyMisses,
        sync := s.intake.sync, damageCount := s.intake.damageCount, discardCount := s.notices.discardCount,
        keyErrors := s.keypad.errors }
    let record (x : Slot × Nat) : ReplyFrame := .record
      { number := x.2, slot := x.1, state := x.1.state, purchase := x.1.committed,
        rentalEnd := (s.buying.rentals.find? fun r => r.record == x.2).map (·.endTime) }
    let answers (frames : List ReplyFrame) : State :=
      { s with reply := { s.reply with queue := s.reply.queue ++ frames } }
    let room := 16 - s.reply.queue.length
    let busy := s.store.closing = true ∨ s.store.awaitingScan = true
    let formed := 1 ≤ first ∧ first ≤ 256 ∧ 1 ≤ count ∧ count ≤ 12
    let listed := (s.store.records.filter fun x => decide (first ≤ x.2) && x.1.state != .opened).take count
    let built := listed.take (room - 1)
    let range := StoreOp.advanceRange .reported (built.map (·.2))
    let sends := answers (status (listed.length - built.length) :: built.map record)
    let asks (cmd : Instr) (valid : Prop) : Prop :=
      (¬ valid → exec cmd s = .next (s.refuse .poll .range))
      ∧ (valid → room = 0 → exec cmd s = .next s)
      ∧ (valid → 0 < room → busy → exec cmd s = .next (answers [status 0]))
    asks (.pollStatus t) True
    ∧ asks (.pollRecords t first count) formed
    ∧ asks (.pollLane t lane) (lane ≤ 23)
    ∧ (0 < room → exec (.pollStatus t) s = .next (answers [status 0]))
    ∧ (lane ≤ 23 → room = 1 → exec (.pollLane t lane) s = .next (answers [status 0]))
    ∧ (lane ≤ 23 → 1 < room → ¬ busy → exec (.pollLane t lane) s = .next (answers [status 0, laneFrame]))
    ∧ (formed → 0 < room → ¬ busy → built = [] → exec (.pollRecords t first count) s = .next sends)
    ∧ (formed → 0 < room → ¬ busy → built ≠ [] → s.store.fault = true ∨ 8 ≤ s.store.queue.length →
        ∃ u, exec (.pollRecords t first count) s = .next u ∧ Redecided sends u)
    ∧ (formed → 0 < room → ¬ busy → built ≠ [] → s.store.fault = false → s.store.queue.length < 8 →
        ∃ u, exec (.pollRecords t first count) s = .next u
          ∧ (s.store.queue = [] ∧ IdleRange s.store range → Redecided sends u)
          ∧ (s.store.queue ≠ [] ∨ ¬ IdleRange s.store range →
              Redecided { sends with store := { s.store with queue := s.store.queue ++ [range.queued] } } u))

/-- FRAME_SENT: the oldest frame leaves the queue as its bytes: the lead byte, type, length, content and the check,
the sum of all between. The content is laid out field by field; a one-byte field that may be absent is 0xFF then, one
with a presence bit 0, and the key wait start second is 0 for a lane not in KEYWAIT (log entry 38). A boolean byte is 1
for yes (log entry 41). The line is the model's record of what left (log entry 28). -/
def Obligations.frames_leave_in_order_with_their_check : Prop :=
  ∀ s : State, Awake s →
    (s.reply.queue = [] → exec .frameSent s = .next s)
    ∧ ∀ f rest, s.reply.queue = f :: rest →
        let flag (b : Bool) : Nat := if b then 1 else 0
        let opt (x : Option Nat) : Nat := x.getD 255
        let kinds : List CommandKind := [.assignRoom, .restart, .loadLane, .setLaneResponse, .loadKey, .clearKey,
          .setPackages, .loadChannel, .loadRatingMap, .setCeiling, .setPin, .setUnlockMinutes, .loadPrice,
              .setBilling,
          .setCredit, .extendRental, .closeFolio, .loadSlate, .setCutMode, .poll, .settle, .clearNotices,
          .setNoticeMask, .unknown]
        let reasons : List Reason := [.busy, .range, .conflict, .state, .stale, .full]
        let views : List View := [.show, .slate .noSignal, .slate .noKey, .slate .notSubscribed, .slate .locked,
          .slate .pin, .slate .offer, .slate .credit, .slate .wait, .slate .unavailable]
        exec .frameSent s = .next { s with reply := { s.reply with queue := rest, line := f.bytes } }
        ∧ ∃ type content : List Byte,
            f.bytes = 0xA5 :: type ++ BitVec.ofNat 8 content.length :: content
              ++ [(type ++ BitVec.ofNat 8 content.length :: content).sum]
            ∧ match f with
              | .status f => type = [0] ∧ content.length = 40 ∧ Layout content
                  [(6, f.unitId), (2, f.room), (1, f.group), (2, f.folio),
                   (1, [StoreState.ready, .busy, .closing, .full, .faulted].idxOf f.store), (2, f.flags.toNat),
                   (2, f.mask.toNat), (4, f.folioTotal), (4, f.dayCharges), (3, f.credit),
                   (1, opt (f.lastRefusal.map fun x => kinds.idxOf x.1)),
                   (1, opt (f.lastRefusal.map fun x => reasons.idxOf x.2)), (2, f.refusedCount),
                   (4, f.hotelTime.getD 0), (1, flag f.hotelTime.isSome), (2, f.tuned.getD 0),
                   (1, opt (f.decision.map views.idxOf)), (1, f.truncation)]
              | .record f => type = [1] ∧ content.length = 31 ∧ Layout content
                  [(2, f.slot.folio.getD 0), (2, f.number), (2, f.slot.programme.getD 0), (2, f.slot.channel.getD 0),
                   (1, f.slot.priceClass.getD 0), (2, f.slot.minutes.getD 0),
                   (1, flag f.slot.price.isSome + 2 * flag f.slot.tax.isSome + 4 * flag f.slot.charge.isSome
                     + 8 * flag f.slot.commitTime.isSome + 16 * flag f.slot.extension.isSome
                     + 32 * flag f.rentalEnd.isSome),
                   (2, f.slot.price.getD 0), (2, f.slot.tax.getD 0), (3, f.slot.charge.getD 0),
                   (4, f.slot.commitTime.getD 0), (2, f.slot.extension.getD 0),
                   (1, [RecordState.opened, .previewed, .committed, .reported, .settled].idxOf f.state),
                   (1, flag !f.purchase), (4, f.rentalEnd.getD 0)]
              | .lane f => type = [2] ∧ content.length = 35 ∧ Layout content
                  ([(1, f.number), (1, flag f.config.isSome)]
                    ++ (match f.config with
                      | none => [(2, 0), (1, 0), (1, 0), (1, 0), (1, 0), (1, 0), (1, 0)]
                      | some c => [(2, c.stream), (1, [LaneKind.picture, .sound].idxOf c.kind), (1, c.package),
                          (1, opt c.keySlot), (1, c.firstBlock), (1, c.blockCount), (1, c.watchCode)])
                    ++ [(1, [Response.idle, .hold, .pass, .block].idxOf f.response),
                      (1, [Watch.unarmed, .armed, .lost].idxOf f.watch), (1, f.silence), (1, opt f.expected),
                      (1, match f.keyStatus with | .keyed => 0 | .keywait _ _ _ => 1 | .keyless => 2),
                      (4, match f.keyStatus with | .keywait start _ _ => start.toNat | _ => 0), (1, flag f.tuned),
                      (2, f.accepted), (2, f.discontinuities), (2, f.overflowDrops), (2, f.keyMisses),
                      (1, [SyncState.search, .locked].idxOf f.sync), (2, f.damageCount), (2, f.discardCount),
                      (2, f.keyErrors)])

/-- CLEAR NOTICES and SET NOTICE MASK accept every set and every target, and the attention line follows at once. -/
def Obligations.clear_notices_and_set_mask : Prop :=
  ∀ (s : State) (t : Target) (set : Half), Awake s → s.addressed t = true →
    ∃ u v, exec (.clearNotices t set) s = .next u ∧ exec (.setNoticeMask t set) s = .next v
      ∧ { u with reply := s.reply } = s ∧ { v with reply := s.reply } = s
      ∧ u.reply.queue = s.reply.queue ∧ u.reply.mask = s.reply.mask ∧ u.reply.line = s.reply.line
      ∧ v.reply.queue = s.reply.queue ∧ v.reply.flags = s.reply.flags ∧ v.reply.line = s.reply.line
      ∧ (u.reply.attention = true ↔ ∃ i, u.reply.flags.getLsbD i = true ∧ u.reply.mask.getLsbD i = true)
      ∧ (v.reply.attention = true ↔ ∃ i, v.reply.flags.getLsbD i = true ∧ v.reply.mask.getLsbD i = true)
      ∧ ∀ i, i < 12 →
          (u.reply.flags.getLsbD i = true ↔ s.reply.flags.getLsbD i = true ∧ set.getLsbD i = false)
            ∧ v.reply.mask.getLsbD i = set.getLsbD i

/-! ## The folio store's operations -/

/-- What an operation outside a close has programmed at its completion OK, its content appearing whole then, from the
content it finds (log entry 17); a retry of a WRITE EXTENSION whose own first attempt wrote the field programs nothing
more. -/
def Obligations.completed_operation_programs_its_content : Prop :=
  ∀ (s : State) (q : QueuedOp) (rest : List QueuedOp), Awake s → Sized s →
    s.store.queue = q :: rest → s.store.closing = false → (∀ x ∈ rest, x.op.kind ≠ .eraseSector) →
    let op := q.op
    let gives (content : FolioStore → Prop) : Prop :=
      ∃ t, exec (completionCommand op.kind .ok) s = .next t ∧ content t.store
    let only (n : Nat) (new : Slot) (f : FolioStore) : Prop :=
      f.page = s.store.page ∧ f.slot n = new ∧ ∀ m, m ≠ n → f.slot m = s.store.slot m
    let isOpen (sl : Slot) := sl.opened = true ∧ sl.previewed = false ∧ sl.committed = false
    let bought (sl : Slot) := sl.opened = true ∧ sl.folio = some s.store.folio ∧ sl.committed = true
    (∀ r : NewRecord, op = .append r → 1 ≤ r.number → r.number ≤ 256 → s.store.slot r.number = Slot.erased →
      gives (only r.number
        { Slot.erased with folio := some r.folio, number := some r.number, programme := some r.programme,
                           channel := some r.channel, priceClass := some r.priceClass, minutes := some r.minutes,
                           price := r.commit.map (·.price), tax := r.commit.map (·.tax),
                           charge := r.commit.map (·.charge), commitTime := r.commit.map (·.time), opened := true,
                           committed := r.commit.isSome }))
    ∧ (∀ n, op = .advance n .previewed → isOpen (s.store.slot n) →
        gives (only n { s.store.slot n with charge := some 0, previewed := true }))
    ∧ (∀ n c, op = .advance n (.committed c) → isOpen (s.store.slot n) → (s.store.slot n).price = none →
        (s.store.slot n).tax = none → (s.store.slot n).charge = none → (s.store.slot n).commitTime = none →
        gives (only n { s.store.slot n with price := some c.price, tax := some c.tax, charge := some c.charge,
                                            commitTime := some c.time, committed := true }))
    ∧ (∀ n a, op = .advance n a → (s.store.slot n).opened = true →
        (a = .previewed ∧ (s.store.slot n).previewed = true ∧ (s.store.slot n).committed = false
          ∨ (∃ c, a = .committed c) ∧ (s.store.slot n).committed = true ∧ (s.store.slot n).previewed = false) →
        gives (only n (s.store.slot n)))
    ∧ (∀ a ns, op = .advanceRange a ns → gives fun f => f.page = s.store.page ∧
        ∀ n, f.slot n =
          let sl := s.store.slot n
          if n ∈ ns ∧ sl.opened = true ∧ sl.folio = some s.store.folio then
            match a with
            | .reported =>
              if sl.state = .previewed ∨ sl.state = .committed then { sl with reported := true } else sl
            | .settled => if sl.state = .reported then { sl with settled := true } else sl
          else sl)
    ∧ (∀ n m, op = .writeExtension n m → bought (s.store.slot n) → (s.store.slot n).extension = none →
        gives (only n { s.store.slot n with extension := some m }))
    ∧ (∀ n m, op = .writeExtension n m → bought (s.store.slot n) → (s.store.slot n).extension ≠ none → q.wrote =
        true →
        gives (only n (s.store.slot n)))
    ∧ ∀ b n v, op = .writeSettings b (some (n, v)) → gives fun f => f.sectors = s.store.sectors ∧ f.page =
        { folio := some n, f := some v.f, r := some v.r, unlockMinutes := some v.unlockMinutes,
          billing := some v.billing, taxRate := some v.taxRate, dayCap := some v.dayCap, dayStart := some v.dayStart,
          defaultCredit := some v.defaultCredit, cutMode := some v.cutMode, room := some v.room,
          group := some v.group, validMark := true, closeMark := false }

/-- The close sequence: the close mark, each sector in turn, and the ending write, which begins the next folio; its
operations wait in the queue together (log entry 18), and content appears whole at a completion (log entry 17). -/
def Obligations.close_sequence_ends_the_folio : Prop :=
  ∀ (s : State) (q : QueuedOp) (rest : List QueuedOp), Awake s →
    s.store.queue = q :: rest → s.store.closing = true → s.store.awaitingScan = false →
    s.buying.marking = [] → s.store.scanList = [] →
    let op := q.op
    let next (op : StoreOp) (more : List QueuedOp) := rest = op.queued :: more
    let leaves (f : FolioStore) : Prop := ∃ t, exec (completionCommand op.kind .ok) s = .next t
      ∧ Redecided { s with store := f } t
    (∀ more, op = .closeMark → next (.eraseSector 0) more → leaves
      { s.store with page := { s.store.page with closeMark := true }
                     sectors := s.store.sectors.set 0 Sector.voided, queue := rest })
    ∧ (∀ k j more, op = .eraseSector k → next (.eraseSector j) more → leaves
      { s.store with sectors := (s.store.sectors.set k Sector.erased).set j Sector.voided, queue := rest })
    ∧ (∀ k more, op = .eraseSector k → next (.writeSettings true none) more → leaves
      { s.store with
        sectors := s.store.sectors.set k Sector.erased
        queue := (StoreOp.writeSettings true
          (some (if s.store.folio = 65535 then 1 else s.store.folio + 1, s.standing))).queued :: more })
    ∧ (∀ n v, op = .writeSettings true (some (n, v)) → rest = [] → ∃ u t,
        exec (.writeSettingsCompletes .ok) s = .next t ∧ Redecided u t
        ∧ u.store.folio = (if s.store.folio = 65535 then 1 else s.store.folio + 1) ∧ u.store.nextRecord = 1
        ∧ u.store.closing = false ∧ u.store.fault = false ∧ u.store.queue = [] ∧ u.store.state = .ready
        ∧ u.store.resumed = false ∧ u.store.sectors = s.store.sectors ∧ u.store.page.folio = some n
        ∧ u.store.page.validMark = true ∧ u.store.page.closeMark = false ∧ u.store.page.standing = v
        ∧ u.reply.flags = s.reply.flags ||| NoticeFlag.closeDone.set ∧ u.buying = s.buying ∧ u.meters = s.meters)

/-- What a completion OK hands to the block that asked: a commit's rental begins and PURCHASE is raised, an extension is
buffered at its meter, and nothing while the store awaits its scan. The room it leaves is taken by the marking list and
then the scan list, and the next operation starts, each range ahead of it that finds nothing completing OK at once and
leaving room in its turn (log entry 25 on the one number each list gives). In a close that found the operation in
flight, the close's own operations are queued now, all at once (log entry 18). The content appears whole at the
completion, what it finds may bar the OK, and a range completes at its start (log entry 17); a close's ending write
that completes after a RESTART changes the content alone (log entry 19). -/
def Obligations.completion_reaches_its_requester : Prop :=
  ∀ (s : State) (q : QueuedOp) (rest : List QueuedOp), Awake s →
    s.store.queue = q :: rest → s.store.contentFails q = false →
    let op := q.op
    let f := s.store.programAll op
    let marks (u : State) : Purchases := { u.buying with marking := s.buying.marking }
    let asked (n : Nat) := op.commitsRecord = some n
    let begun (x : QueuedOp) : QueuedOp := { x with op := match x.op with
      | .writeSettings ending _ => .writeSettings ending (some
          (if ending = true ∧ s.store.folio = 65535 then 1 else if ending = true then s.store.folio + 1
            else s.store.folio, s.standing))
      | o => o }
    let started (xs : List QueuedOp) : List QueuedOp := xs.take 1 |>.map begun |>.append xs.tail
    (s.store.awaitingScan = true → exec (completionCommand op.kind .ok) s =
        .next { s with store := { f with queue := rest } })
    ∧ (s.store.awaitingScan = false → op.isEnding = false →
    ∃ u t, exec (completionCommand op.kind .ok) s = .next t ∧ Redecided u t
      ∧ (∀ n c as bs, asked n → s.buying.commits = as ++ c :: bs → c.record = n → (∀ x ∈ as, x.record ≠ n) →
          let seconds := (f.slot n).minutes.getD 0 * 60
          let period : Meter :=
            { use := .rental, count := 0, period := some seconds,
              compare1 := if 600 < seconds then some (seconds - 600) else none, buffered := none,
              gating := some .wall, programme := some c.programme, channel := none, record := some n, hold := none }
          marks u = { s.buying with
              commits := s.buying.commits.filter fun x => x.record != n
              previews := if c.kind = .fromPreview then s.buying.previews.filter fun p => p.programme != c.programme
                          else s.buying.previews
              rentals := s.buying.rentals ++ [{ programme := c.programme, record := n, meter := c.meter,
                                                endTime := min (c.time + seconds) 4294967295, extension := .none }] }
            ∧ u.meters = (if (s.meter c.meter).hold = some c.programme then s.meters.set c.meter period else s.meters)
            ∧ u.reply.flags = s.reply.flags ||| NoticeFlag.purchase.set)
      ∧ (∀ n m as r bs, op = .writeExtension n m → s.buying.rentals = as ++ r :: bs → r.record = n →
          (∀ x ∈ as, x.record ≠ n) → r.extension = .requested →
          marks u = { s.buying with rentals := s.buying.rentals.map fun x =>
              if x.record = n then { x with extension := .written } else x }
            ∧ u.meters = (if (s.meter r.meter).use = .rental ∧ (s.meter r.meter).record = some n
                then s.meters.set r.meter { s.meter r.meter with buffered := some (m * 60) } else s.meters)
            ∧ u.reply = s.reply)
      ∧ ((∀ n, asked n → ∀ c ∈ s.buying.commits, c.record ≠ n) →
          (∀ n m, op = .writeExtension n m → ∀ r ∈ s.buying.rentals, r.record = n → r.extension ≠ .requested) →
          marks u = s.buying ∧ u.meters = s.meters ∧ u.reply = s.reply)
      ∧ (s.store.closing = true → op.ofClose = false → rest = [] → u.store.closing = true
          ∧ u.store.fault = s.store.fault ∧ u.store.folio = s.store.folio ∧ CloseBegun f s.standing u.store)
      ∧ (s.store.closing = false → s.store.fault = false → rest.length < 8 →
          (∀ x more, rest = x :: more → ¬ IdleRange f x.op) →
          let scanned := if rest.length < 7 ∨ s.buying.marking = [] then s.store.scanList.take 1 else []
          u.buying.marking = s.buying.marking.tail ∧ u.store.scanList = s.store.scanList.drop scanned.length
            ∧ u.store.queue = started (rest ++ (s.buying.marking.take 1 ++ scanned).map advancing))
      ∧ ∀ idle others, s.store.closing = false → s.store.fault = false → rest.length < 8 → rest = idle ++ others →
          (∀ x ∈ idle, IdleRange f x.op) → (∀ x more, others = x :: more → ¬ IdleRange f x.op) →
          s.buying.marking = [] ∨ s.store.scanList = [] →
          u.buying.marking = s.buying.marking.drop (idle.length + 1)
            ∧ u.store.scanList = s.store.scanList.drop (idle.length + 1)
            ∧ u.store.queue = started (others ++
                ((s.buying.marking ++ s.store.scanList).take (idle.length + 1)).map advancing))

/-- What an operation finds may decide its result: an ADVANCE with no record or one on the other path, and a WRITE
EXTENSION of no purchase or of a field its own first attempt did not write, FAIL; an ADVANCE that holds its target and
a range that finds nothing complete OK; whatever result is commanded (log entry 17). Else a first FAIL starts the
operation again in its place, a WRITE SETTINGS from the erase of its page (log entry 45), and a second makes the store
FAULTED with an empty queue, each commit whose operation is lost dropped; what a failed attempt programmed is the
operand's number of steps, from the content it found (log entry 17); an ending write failing after a RESTART, and a
FAULTED store's marking list, are log entries 19 and 25. -/
def Obligations.failed_operation_is_retried_then_faults : Prop :=
  ∀ (s : State) (q : QueuedOp) (rest : List QueuedOp) (programmed : Nat), Awake s → s.store.queue = q :: rest →
    let op := q.op
    let completes (r : OpResult) := exec (completionCommand op.kind r) s
    let fails := completes (.fail programmed)
    let bars : Prop :=
      (∃ n a, op = .advance n a ∧ ((s.store.slot n).opened = false ∨ a = .previewed
          ∧ (s.store.slot n).committed = true
        ∨ (∃ c, a = .committed c) ∧ (s.store.slot n).previewed = true))
      ∨ ∃ n m, op = .writeExtension n m ∧ (¬ ((s.store.slot n).opened = true
          ∧ (s.store.slot n).folio = some s.store.folio ∧ (s.store.slot n).committed = true)
        ∨ (s.store.slot n).extension ≠ none ∧ q.wrote = false)
    let done : Prop := ¬ bars ∧ ((∃ n a, op = .advance n a ∧ (a = .previewed ∧ (s.store.slot n).previewed = true
        ∨ (∃ c, a = .committed c) ∧ (s.store.slot n).committed = true)) ∨ IdleRange s.store op)
    let f := s.store.programSteps op programmed
    let wrote := !(s.store.attempted op programmed).isEmpty
    let again : State := { s with store := { f with queue := { q with retried := true, wrote := wrote } :: rest } }
    let lost (n : Nat) := ∃ x ∈ q :: rest, x.op.commitsRecord = some n
    (Sized s → AttemptLeaves s.store f op programmed)
    ∧ (bars → ∀ r, completes r = fails)
    ∧ (done → fails = completes .ok)
    ∧ (∀ n m, op = .writeExtension n m → (wrote = true ↔ 0 < programmed ∧ (s.store.slot n).extension = none
        ∧ (s.store.slot n).opened = true ∧ (s.store.slot n).folio = some s.store.folio
        ∧ (s.store.slot n).committed = true))
    ∧ (¬ done → q.retried = false → ¬ IdleRange f op → fails = .next again)
    ∧ (¬ done → q.retried = false → IdleRange f op → fails = exec (completionCommand op.kind .ok) again)
    ∧ (¬ done → q.retried = true → s.store.awaitingScan = true →
        fails = .next (State.raise .storeError { s with store := { f with queue := rest } }))
    ∧ (¬ done → q.retried = true → s.store.awaitingScan = false → ∃ u t, fails = .next t ∧ Redecided u t
        ∧ u.store.fault = true ∧ u.reply.flags = s.reply.flags ||| NoticeFlag.storeError.set
        ∧ u.store.closing = (s.store.closing && !op.ofClose)
        ∧ (s.store.closing = false ∨ op.ofClose = true →
            u.store.queue = [] ∧ u.store.sectors = f.sectors ∧ u.store.page = f.page)
        ∧ (s.store.closing = true → op.ofClose = false → CloseBegun f s.standing u.store)
        ∧ (∀ c, c ∈ u.buying.commits ↔ c ∈ s.buying.commits ∧ ¬ lost c.record)
        ∧ (∀ p ∈ u.buying.previews, p ∈ s.buying.previews)
        ∧ (∀ p ∈ s.buying.previews, p ∉ u.buying.previews →
            ∃ c ∈ s.buying.commits, lost c.record ∧ c.kind = .fromPreview ∧ c.programme = p.programme)
        ∧ (∀ n c as bs, op.commitsRecord = some n → s.buying.commits = as ++ c :: bs → c.record = n →
            (∀ x ∈ as, x.record ≠ n) →
            ((s.meter c.meter).programme = some c.programme ∨ (s.meter c.meter).hold = some c.programme →
              u.meter c.meter = Meter.free)
            ∧ (c.kind = .fromPreview → ∀ p ∈ u.buying.previews, p.programme ≠ c.programme))
        ∧ u.buying.rentals = s.buying.rentals.map fun r =>
            if r.extension = .requested ∧ (q :: rest).any (fun x => x.op.extends r.record) = true
            then { r with extension := .none } else r)

/-! ## What every step keeps -/

/-- The attention line follows the flags and the mask through every step. -/
def Obligations.attention_follows_every_step : Prop :=
  ∀ s t : State, AttentionFollows s → step s = .next t → AttentionFollows t

/-- Every step keeps the tables' sizes, the lanes' areas and the operation queue within their bounds, each meter in its
service, and the guest ceiling at or below the front-desk ceiling. -/
def Obligations.every_step_keeps_the_bounds : Prop :=
  ∀ s t : State, step s = .next t →
    (Sized s → Sized t) ∧ (AreasBounded s → AreasBounded t) ∧ (QueueBounded s → QueueBounded t)
      ∧ (MetersServe s → MetersServe t) ∧ (CeilingHeld s → CeilingHeld t)

/-- A record's state only advances: outside the erasing of a close, no step takes a mark away. -/
def Obligations.records_only_advance : Prop :=
  ∀ s t : State, NoErase s → step s = .next t → ∀ n, MarksKept (s.store.slot n) (t.store.slot n)

/-- The state after reset, a part just powered with its store wholly erased (log entry 2), meets every invariant. -/
def Obligations.reset_meets_the_invariants : Prop :=
  AttentionFollows State.reset ∧ Sized State.reset ∧ AreasBounded State.reset ∧ QueueBounded State.reset
    ∧ MetersServe State.reset ∧ CeilingHeld State.reset ∧ NoErase State.reset
end

