-- ==== Sys2Proof/Laws/State.lean ====
section
/-!
SUPPORT. What each shared operation leaves unchanged, one conjunction for each, and what it writes. simp takes every part
of a conjunction as a rule of its own, so a proof never unfolds a record update.
-/

namespace Sys2Proof.Machine

/-! ## Updates of one block -/

/-- Raising a flag touches the reply unit alone. -/
@[simp] theorem State.raise_keeps (f : NoticeFlag) (s : State) :
    (s.raise f).powered = s.powered ∧ (s.raise f).second = s.second ∧ (s.raise f).intake = s.intake ∧
      (s.raise f).lanes = s.lanes ∧ (s.raise f).keys = s.keys ∧ (s.raise f).packages = s.packages ∧
      (s.raise f).notices = s.notices ∧ (s.raise f).lock = s.lock ∧ (s.raise f).meters = s.meters ∧
      (s.raise f).buying = s.buying ∧ (s.raise f).store = s.store ∧ (s.raise f).keypad = s.keypad ∧
      (s.raise f).composer = s.composer ∧ (s.raise f).management = s.management ∧ (s.raise f).due = s.due ∧
      (s.raise f).pending = s.pending :=
  ⟨rfl, rfl, rfl, rfl, rfl, rfl, rfl, rfl, rfl, rfl, rfl, rfl, rfl, rfl, rfl, rfl⟩

/-- A refusal touches the decoder and the reply unit alone. -/
@[simp] theorem State.refuse_keeps (k : CommandKind) (r : Reason) (s : State) :
    (s.refuse k r).powered = s.powered ∧ (s.refuse k r).second = s.second ∧ (s.refuse k r).intake = s.intake ∧
      (s.refuse k r).lanes = s.lanes ∧ (s.refuse k r).keys = s.keys ∧ (s.refuse k r).packages = s.packages ∧
      (s.refuse k r).notices = s.notices ∧ (s.refuse k r).lock = s.lock ∧ (s.refuse k r).meters = s.meters ∧
      (s.refuse k r).buying = s.buying ∧ (s.refuse k r).store = s.store ∧ (s.refuse k r).keypad = s.keypad ∧
      (s.refuse k r).composer = s.composer ∧ (s.refuse k r).due = s.due ∧ (s.refuse k r).pending = s.pending :=
  ⟨rfl, rfl, rfl, rfl, rfl, rfl, rfl, rfl, rfl, rfl, rfl, rfl, rfl, rfl, rfl⟩

/-- Writing a lane touches the lane table alone. -/
@[simp] theorem State.setLane_keeps (i : Nat) (l : Lane) (s : State) :
    (s.setLane i l).powered = s.powered ∧ (s.setLane i l).second = s.second ∧ (s.setLane i l).intake = s.intake ∧
      (s.setLane i l).keys = s.keys ∧ (s.setLane i l).packages = s.packages ∧ (s.setLane i l).notices = s.notices ∧
      (s.setLane i l).lock = s.lock ∧ (s.setLane i l).meters = s.meters ∧ (s.setLane i l).buying = s.buying ∧
      (s.setLane i l).store = s.store ∧ (s.setLane i l).keypad = s.keypad ∧ (s.setLane i l).composer = s.composer ∧
      (s.setLane i l).management = s.management ∧ (s.setLane i l).reply = s.reply ∧ (s.setLane i l).due = s.due ∧
      (s.setLane i l).pending = s.pending :=
  ⟨rfl, rfl, rfl, rfl, rfl, rfl, rfl, rfl, rfl, rfl, rfl, rfl, rfl, rfl, rfl, rfl⟩

/-- Writing a notice entry touches the notice table alone. -/
@[simp] theorem State.setNotice_keeps (i : Nat) (e : NoticeEntry) (s : State) :
    (s.setNotice i e).powered = s.powered ∧ (s.setNotice i e).second = s.second ∧
      (s.setNotice i e).intake = s.intake ∧ (s.setNotice i e).lanes = s.lanes ∧ (s.setNotice i e).keys = s.keys ∧
      (s.setNotice i e).packages = s.packages ∧ (s.setNotice i e).lock = s.lock ∧
      (s.setNotice i e).meters = s.meters ∧ (s.setNotice i e).buying = s.buying ∧ (s.setNotice i e).store = s.store ∧
      (s.setNotice i e).keypad = s.keypad ∧ (s.setNotice i e).composer = s.composer ∧
      (s.setNotice i e).management = s.management ∧ (s.setNotice i e).reply = s.reply ∧
      (s.setNotice i e).due = s.due ∧ (s.setNotice i e).pending = s.pending :=
  ⟨rfl, rfl, rfl, rfl, rfl, rfl, rfl, rfl, rfl, rfl, rfl, rfl, rfl, rfl, rfl, rfl⟩

/-- Writing a meter touches the meter bank alone. -/
@[simp] theorem State.setMeter_keeps (i : Nat) (m : Meter) (s : State) :
    (s.setMeter i m).powered = s.powered ∧ (s.setMeter i m).second = s.second ∧ (s.setMeter i m).intake = s.intake ∧
      (s.setMeter i m).lanes = s.lanes ∧ (s.setMeter i m).keys = s.keys ∧ (s.setMeter i m).packages = s.packages ∧
      (s.setMeter i m).notices = s.notices ∧ (s.setMeter i m).lock = s.lock ∧ (s.setMeter i m).buying = s.buying ∧
      (s.setMeter i m).store = s.store ∧ (s.setMeter i m).keypad = s.keypad ∧
      (s.setMeter i m).composer = s.composer ∧ (s.setMeter i m).management = s.management ∧
      (s.setMeter i m).reply = s.reply ∧ (s.setMeter i m).due = s.due ∧ (s.setMeter i m).pending = s.pending :=
  ⟨rfl, rfl, rfl, rfl, rfl, rfl, rfl, rfl, rfl, rfl, rfl, rfl, rfl, rfl, rfl, rfl⟩

/-- RESERVE touches the meter bank alone. -/
@[simp] theorem State.reserveMeter_keeps (i p : Nat) (s : State) :
    (s.reserveMeter i p).powered = s.powered ∧ (s.reserveMeter i p).second = s.second ∧
      (s.reserveMeter i p).intake = s.intake ∧ (s.reserveMeter i p).lanes = s.lanes ∧
      (s.reserveMeter i p).keys = s.keys ∧ (s.reserveMeter i p).packages = s.packages ∧
      (s.reserveMeter i p).notices = s.notices ∧ (s.reserveMeter i p).lock = s.lock ∧
      (s.reserveMeter i p).buying = s.buying ∧ (s.reserveMeter i p).store = s.store ∧
      (s.reserveMeter i p).keypad = s.keypad ∧ (s.reserveMeter i p).composer = s.composer ∧
      (s.reserveMeter i p).management = s.management ∧ (s.reserveMeter i p).reply = s.reply ∧
      (s.reserveMeter i p).due = s.due ∧ (s.reserveMeter i p).pending = s.pending :=
  ⟨rfl, rfl, rfl, rfl, rfl, rfl, rfl, rfl, rfl, rfl, rfl, rfl, rfl, rfl, rfl, rfl⟩

/-- HOLD PREVIEW touches the meter bank alone. -/
@[simp] theorem State.holdPreview_keeps (i p : Nat) (s : State) :
    (s.holdPreview i p).powered = s.powered ∧ (s.holdPreview i p).second = s.second ∧
      (s.holdPreview i p).intake = s.intake ∧ (s.holdPreview i p).lanes = s.lanes ∧
      (s.holdPreview i p).keys = s.keys ∧ (s.holdPreview i p).packages = s.packages ∧
      (s.holdPreview i p).notices = s.notices ∧ (s.holdPreview i p).lock = s.lock ∧
      (s.holdPreview i p).buying = s.buying ∧ (s.holdPreview i p).store = s.store ∧
      (s.holdPreview i p).keypad = s.keypad ∧ (s.holdPreview i p).composer = s.composer ∧
      (s.holdPreview i p).management = s.management ∧ (s.holdPreview i p).reply = s.reply ∧
      (s.holdPreview i p).due = s.due ∧ (s.holdPreview i p).pending = s.pending := by
  unfold State.holdPreview; dsimp only; split <;> simp

/-- START RENTAL touches the meter bank alone. -/
@[simp] theorem State.startRental_keeps (i p r n : Nat) (s : State) :
    (s.startRental i p r n).powered = s.powered ∧ (s.startRental i p r n).second = s.second ∧
      (s.startRental i p r n).intake = s.intake ∧ (s.startRental i p r n).lanes = s.lanes ∧
      (s.startRental i p r n).keys = s.keys ∧ (s.startRental i p r n).packages = s.packages ∧
      (s.startRental i p r n).notices = s.notices ∧ (s.startRental i p r n).lock = s.lock ∧
      (s.startRental i p r n).buying = s.buying ∧ (s.startRental i p r n).store = s.store ∧
      (s.startRental i p r n).keypad = s.keypad ∧ (s.startRental i p r n).composer = s.composer ∧
      (s.startRental i p r n).management = s.management ∧ (s.startRental i p r n).reply = s.reply ∧
      (s.startRental i p r n).due = s.due ∧ (s.startRental i p r n).pending = s.pending := by
  unfold State.startRental; split <;> simp

/-- SET BUFFERED PERIOD touches the meter bank alone. -/
@[simp] theorem State.setBuffered_keeps (i r n : Nat) (s : State) :
    (s.setBuffered i r n).powered = s.powered ∧ (s.setBuffered i r n).second = s.second ∧
      (s.setBuffered i r n).intake = s.intake ∧ (s.setBuffered i r n).lanes = s.lanes ∧
      (s.setBuffered i r n).keys = s.keys ∧ (s.setBuffered i r n).packages = s.packages ∧
      (s.setBuffered i r n).notices = s.notices ∧ (s.setBuffered i r n).lock = s.lock ∧
      (s.setBuffered i r n).buying = s.buying ∧ (s.setBuffered i r n).store = s.store ∧
      (s.setBuffered i r n).keypad = s.keypad ∧ (s.setBuffered i r n).composer = s.composer ∧
      (s.setBuffered i r n).management = s.management ∧ (s.setBuffered i r n).reply = s.reply ∧
      (s.setBuffered i r n).due = s.due ∧ (s.setBuffered i r n).pending = s.pending := by
  unfold State.setBuffered; dsimp only; split <;> simp

/-- RELEASE touches the meter bank alone. -/
@[simp] theorem State.releaseMeter_keeps (i p : Nat) (s : State) :
    (s.releaseMeter i p).powered = s.powered ∧ (s.releaseMeter i p).second = s.second ∧
      (s.releaseMeter i p).intake = s.intake ∧ (s.releaseMeter i p).lanes = s.lanes ∧
      (s.releaseMeter i p).keys = s.keys ∧ (s.releaseMeter i p).packages = s.packages ∧
      (s.releaseMeter i p).notices = s.notices ∧ (s.releaseMeter i p).lock = s.lock ∧
      (s.releaseMeter i p).buying = s.buying ∧ (s.releaseMeter i p).store = s.store ∧
      (s.releaseMeter i p).keypad = s.keypad ∧ (s.releaseMeter i p).composer = s.composer ∧
      (s.releaseMeter i p).management = s.management ∧ (s.releaseMeter i p).reply = s.reply ∧
      (s.releaseMeter i p).due = s.due ∧ (s.releaseMeter i p).pending = s.pending := by
  unfold State.releaseMeter; dsimp only; split <;> simp

/-- Clearing the refusal touches the purchase unit alone. -/
@[simp] theorem State.clearRefusal_keeps (s : State) :
    (s.clearRefusal).powered = s.powered ∧ (s.clearRefusal).second = s.second ∧ (s.clearRefusal).intake = s.intake ∧
      (s.clearRefusal).lanes = s.lanes ∧ (s.clearRefusal).keys = s.keys ∧ (s.clearRefusal).packages = s.packages ∧
      (s.clearRefusal).notices = s.notices ∧ (s.clearRefusal).lock = s.lock ∧ (s.clearRefusal).meters = s.meters ∧
      (s.clearRefusal).store = s.store ∧ (s.clearRefusal).keypad = s.keypad ∧
      (s.clearRefusal).composer = s.composer ∧ (s.clearRefusal).management = s.management ∧
      (s.clearRefusal).reply = s.reply ∧ (s.clearRefusal).due = s.due ∧ (s.clearRefusal).pending = s.pending :=
  ⟨rfl, rfl, rfl, rfl, rfl, rfl, rfl, rfl, rfl, rfl, rfl, rfl, rfl, rfl, rfl, rfl⟩

/-- Dropping a preview entry touches the purchase unit alone. -/
@[simp] theorem State.dropPreview_keeps (p : Nat) (s : State) :
    (s.dropPreview p).powered = s.powered ∧ (s.dropPreview p).second = s.second ∧
      (s.dropPreview p).intake = s.intake ∧ (s.dropPreview p).lanes = s.lanes ∧ (s.dropPreview p).keys = s.keys ∧
      (s.dropPreview p).packages = s.packages ∧ (s.dropPreview p).notices = s.notices ∧
      (s.dropPreview p).lock = s.lock ∧ (s.dropPreview p).meters = s.meters ∧ (s.dropPreview p).store = s.store ∧
      (s.dropPreview p).keypad = s.keypad ∧ (s.dropPreview p).composer = s.composer ∧
      (s.dropPreview p).management = s.management ∧ (s.dropPreview p).reply = s.reply ∧
      (s.dropPreview p).due = s.due ∧ (s.dropPreview p).pending = s.pending :=
  ⟨rfl, rfl, rfl, rfl, rfl, rfl, rfl, rfl, rfl, rfl, rfl, rfl, rfl, rfl, rfl, rfl⟩

/-- Dropping a commit entry touches the purchase unit alone. -/
@[simp] theorem State.dropCommit_keeps (n : Nat) (s : State) :
    (s.dropCommit n).powered = s.powered ∧ (s.dropCommit n).second = s.second ∧ (s.dropCommit n).intake = s.intake ∧
      (s.dropCommit n).lanes = s.lanes ∧ (s.dropCommit n).keys = s.keys ∧ (s.dropCommit n).packages = s.packages ∧
      (s.dropCommit n).notices = s.notices ∧ (s.dropCommit n).lock = s.lock ∧ (s.dropCommit n).meters = s.meters ∧
      (s.dropCommit n).store = s.store ∧ (s.dropCommit n).keypad = s.keypad ∧
      (s.dropCommit n).composer = s.composer ∧ (s.dropCommit n).management = s.management ∧
      (s.dropCommit n).reply = s.reply ∧ (s.dropCommit n).due = s.due ∧ (s.dropCommit n).pending = s.pending :=
  ⟨rfl, rfl, rfl, rfl, rfl, rfl, rfl, rfl, rfl, rfl, rfl, rfl, rfl, rfl, rfl, rfl⟩

/-- Dropping a bought preview touches the purchase unit alone. -/
@[simp] theorem State.dropBought_keeps (c : Commit) (s : State) :
    (s.dropBought c).powered = s.powered ∧ (s.dropBought c).second = s.second ∧ (s.dropBought c).intake = s.intake ∧
      (s.dropBought c).lanes = s.lanes ∧ (s.dropBought c).keys = s.keys ∧ (s.dropBought c).packages = s.packages ∧
      (s.dropBought c).notices = s.notices ∧ (s.dropBought c).lock = s.lock ∧ (s.dropBought c).meters = s.meters ∧
      (s.dropBought c).store = s.store ∧ (s.dropBought c).keypad = s.keypad ∧
      (s.dropBought c).composer = s.composer ∧ (s.dropBought c).management = s.management ∧
      (s.dropBought c).reply = s.reply ∧ (s.dropBought c).due = s.due ∧ (s.dropBought c).pending = s.pending := by
  unfold State.dropBought; split <;> simp

/-- Changing a rental entry touches the purchase unit alone. -/
@[simp] theorem State.onRental_keeps (n : Nat) (g : Rental → Rental) (s : State) :
    (s.onRental n g).powered = s.powered ∧ (s.onRental n g).second = s.second ∧ (s.onRental n g).intake = s.intake ∧
      (s.onRental n g).lanes = s.lanes ∧ (s.onRental n g).keys = s.keys ∧ (s.onRental n g).packages = s.packages ∧
      (s.onRental n g).notices = s.notices ∧ (s.onRental n g).lock = s.lock ∧ (s.onRental n g).meters = s.meters ∧
      (s.onRental n g).store = s.store ∧ (s.onRental n g).keypad = s.keypad ∧
      (s.onRental n g).composer = s.composer ∧ (s.onRental n g).management = s.management ∧
      (s.onRental n g).reply = s.reply ∧ (s.onRental n g).due = s.due ∧ (s.onRental n g).pending = s.pending :=
  ⟨rfl, rfl, rfl, rfl, rfl, rfl, rfl, rfl, rfl, rfl, rfl, rfl, rfl, rfl, rfl, rfl⟩

/-- Adding a commit touches the purchase unit alone. -/
@[simp] theorem State.addCommit_keeps (c : Commit) (s : State) :
    (s.addCommit c).powered = s.powered ∧ (s.addCommit c).second = s.second ∧ (s.addCommit c).intake = s.intake ∧
      (s.addCommit c).lanes = s.lanes ∧ (s.addCommit c).keys = s.keys ∧ (s.addCommit c).packages = s.packages ∧
      (s.addCommit c).notices = s.notices ∧ (s.addCommit c).lock = s.lock ∧ (s.addCommit c).meters = s.meters ∧
      (s.addCommit c).store = s.store ∧ (s.addCommit c).keypad = s.keypad ∧ (s.addCommit c).composer = s.composer ∧
      (s.addCommit c).management = s.management ∧ (s.addCommit c).reply = s.reply ∧ (s.addCommit c).due = s.due ∧
      (s.addCommit c).pending = s.pending :=
  ⟨rfl, rfl, rfl, rfl, rfl, rfl, rfl, rfl, rfl, rfl, rfl, rfl, rfl, rfl, rfl, rfl⟩

/-- Marking a preview BUYING touches the purchase unit alone. -/
@[simp] theorem State.markBuying_keeps (p : Nat) (s : State) :
    (s.markBuying p).powered = s.powered ∧ (s.markBuying p).second = s.second ∧ (s.markBuying p).intake = s.intake ∧
      (s.markBuying p).lanes = s.lanes ∧ (s.markBuying p).keys = s.keys ∧ (s.markBuying p).packages = s.packages ∧
      (s.markBuying p).notices = s.notices ∧ (s.markBuying p).lock = s.lock ∧ (s.markBuying p).meters = s.meters ∧
      (s.markBuying p).store = s.store ∧ (s.markBuying p).keypad = s.keypad ∧
      (s.markBuying p).composer = s.composer ∧ (s.markBuying p).management = s.management ∧
      (s.markBuying p).reply = s.reply ∧ (s.markBuying p).due = s.due ∧ (s.markBuying p).pending = s.pending :=
  ⟨rfl, rfl, rfl, rfl, rfl, rfl, rfl, rfl, rfl, rfl, rfl, rfl, rfl, rfl, rfl, rfl⟩

/-- Ending PIN entry touches the rating lock alone. -/
@[simp] theorem State.pinIdle_keeps (s : State) :
    (s.pinIdle).powered = s.powered ∧ (s.pinIdle).second = s.second ∧ (s.pinIdle).intake = s.intake ∧
      (s.pinIdle).lanes = s.lanes ∧ (s.pinIdle).keys = s.keys ∧ (s.pinIdle).packages = s.packages ∧
      (s.pinIdle).notices = s.notices ∧ (s.pinIdle).meters = s.meters ∧ (s.pinIdle).buying = s.buying ∧
      (s.pinIdle).store = s.store ∧ (s.pinIdle).keypad = s.keypad ∧ (s.pinIdle).composer = s.composer ∧
      (s.pinIdle).management = s.management ∧ (s.pinIdle).reply = s.reply ∧ (s.pinIdle).due = s.due ∧
      (s.pinIdle).pending = s.pending :=
  ⟨rfl, rfl, rfl, rfl, rfl, rfl, rfl, rfl, rfl, rfl, rfl, rfl, rfl, rfl, rfl, rfl⟩

/-- Ending the channel entry touches the keypad unit alone. -/
@[simp] theorem State.endEntry_keeps (s : State) :
    (s.endEntry).powered = s.powered ∧ (s.endEntry).second = s.second ∧ (s.endEntry).intake = s.intake ∧
      (s.endEntry).lanes = s.lanes ∧ (s.endEntry).keys = s.keys ∧ (s.endEntry).packages = s.packages ∧
      (s.endEntry).notices = s.notices ∧ (s.endEntry).lock = s.lock ∧ (s.endEntry).meters = s.meters ∧
      (s.endEntry).buying = s.buying ∧ (s.endEntry).store = s.store ∧ (s.endEntry).composer = s.composer ∧
      (s.endEntry).management = s.management ∧ (s.endEntry).reply = s.reply ∧ (s.endEntry).due = s.due ∧
      (s.endEntry).pending = s.pending :=
  ⟨rfl, rfl, rfl, rfl, rfl, rfl, rfl, rfl, rfl, rfl, rfl, rfl, rfl, rfl, rfl, rfl⟩

/-- Counting a discard touches the notice table alone. -/
@[simp] theorem State.countDiscard_keeps (s : State) :
    (s.countDiscard).powered = s.powered ∧ (s.countDiscard).second = s.second ∧ (s.countDiscard).intake = s.intake ∧
      (s.countDiscard).lanes = s.lanes ∧ (s.countDiscard).keys = s.keys ∧ (s.countDiscard).packages = s.packages ∧
      (s.countDiscard).lock = s.lock ∧ (s.countDiscard).meters = s.meters ∧ (s.countDiscard).buying = s.buying ∧
      (s.countDiscard).store = s.store ∧ (s.countDiscard).keypad = s.keypad ∧
      (s.countDiscard).composer = s.composer ∧ (s.countDiscard).management = s.management ∧
      (s.countDiscard).reply = s.reply ∧ (s.countDiscard).due = s.due ∧ (s.countDiscard).pending = s.pending :=
  ⟨rfl, rfl, rfl, rfl, rfl, rfl, rfl, rfl, rfl, rfl, rfl, rfl, rfl, rfl, rfl, rfl⟩

/-- Writing a key touches the key table alone. -/
@[simp] theorem State.setKey_keeps (slot : Nat) (p : Phase) (v : Option Word32) (s : State) :
    (s.setKey slot p v).powered = s.powered ∧ (s.setKey slot p v).second = s.second ∧
      (s.setKey slot p v).intake = s.intake ∧ (s.setKey slot p v).lanes = s.lanes ∧
      (s.setKey slot p v).packages = s.packages ∧ (s.setKey slot p v).notices = s.notices ∧
      (s.setKey slot p v).lock = s.lock ∧ (s.setKey slot p v).meters = s.meters ∧
      (s.setKey slot p v).buying = s.buying ∧ (s.setKey slot p v).store = s.store ∧
      (s.setKey slot p v).keypad = s.keypad ∧ (s.setKey slot p v).composer = s.composer ∧
      (s.setKey slot p v).management = s.management ∧ (s.setKey slot p v).reply = s.reply ∧
      (s.setKey slot p v).due = s.due ∧ (s.setKey slot p v).pending = s.pending :=
  ⟨rfl, rfl, rfl, rfl, rfl, rfl, rfl, rfl, rfl, rfl, rfl, rfl, rfl, rfl, rfl, rfl⟩

/-- Queueing frames touches the reply unit alone. -/
@[simp] theorem State.enqueue_keeps (fs : List ReplyFrame) (s : State) :
    (s.enqueue fs).powered = s.powered ∧ (s.enqueue fs).second = s.second ∧ (s.enqueue fs).intake = s.intake ∧
      (s.enqueue fs).lanes = s.lanes ∧ (s.enqueue fs).keys = s.keys ∧ (s.enqueue fs).packages = s.packages ∧
      (s.enqueue fs).notices = s.notices ∧ (s.enqueue fs).lock = s.lock ∧ (s.enqueue fs).meters = s.meters ∧
      (s.enqueue fs).buying = s.buying ∧ (s.enqueue fs).store = s.store ∧ (s.enqueue fs).keypad = s.keypad ∧
      (s.enqueue fs).composer = s.composer ∧ (s.enqueue fs).management = s.management ∧ (s.enqueue fs).due = s.due ∧
      (s.enqueue fs).pending = s.pending :=
  ⟨rfl, rfl, rfl, rfl, rfl, rfl, rfl, rfl, rfl, rfl, rfl, rfl, rfl, rfl, rfl, rfl⟩

/-- Removing the operation in flight touches the store alone. -/
@[simp] theorem State.popOp_keeps (s : State) :
    (s.popOp).powered = s.powered ∧ (s.popOp).second = s.second ∧ (s.popOp).intake = s.intake ∧
      (s.popOp).lanes = s.lanes ∧ (s.popOp).keys = s.keys ∧ (s.popOp).packages = s.packages ∧
      (s.popOp).notices = s.notices ∧ (s.popOp).lock = s.lock ∧ (s.popOp).meters = s.meters ∧
      (s.popOp).buying = s.buying ∧ (s.popOp).keypad = s.keypad ∧ (s.popOp).composer = s.composer ∧
      (s.popOp).management = s.management ∧ (s.popOp).reply = s.reply ∧ (s.popOp).due = s.due ∧
      (s.popOp).pending = s.pending :=
  ⟨rfl, rfl, rfl, rfl, rfl, rfl, rfl, rfl, rfl, rfl, rfl, rfl, rfl, rfl, rfl, rfl⟩

/-- Changing stored content touches the store alone. -/
@[simp] theorem State.stored_keeps (f : FolioStore → FolioStore) (s : State) :
    (s.stored f).powered = s.powered ∧ (s.stored f).second = s.second ∧ (s.stored f).intake = s.intake ∧
      (s.stored f).lanes = s.lanes ∧ (s.stored f).keys = s.keys ∧ (s.stored f).packages = s.packages ∧
      (s.stored f).notices = s.notices ∧ (s.stored f).lock = s.lock ∧ (s.stored f).meters = s.meters ∧
      (s.stored f).buying = s.buying ∧ (s.stored f).keypad = s.keypad ∧ (s.stored f).composer = s.composer ∧
      (s.stored f).management = s.management ∧ (s.stored f).reply = s.reply ∧ (s.stored f).due = s.due ∧
      (s.stored f).pending = s.pending :=
  ⟨rfl, rfl, rfl, rfl, rfl, rfl, rfl, rfl, rfl, rfl, rfl, rfl, rfl, rfl, rfl, rfl⟩

/-- Giving out a record number touches the store alone. -/
@[simp] theorem State.takeRecordNumber_keeps (s : State) :
    (s.takeRecordNumber).powered = s.powered ∧ (s.takeRecordNumber).second = s.second ∧
      (s.takeRecordNumber).intake = s.intake ∧ (s.takeRecordNumber).lanes = s.lanes ∧
      (s.takeRecordNumber).keys = s.keys ∧ (s.takeRecordNumber).packages = s.packages ∧
      (s.takeRecordNumber).notices = s.notices ∧ (s.takeRecordNumber).lock = s.lock ∧
      (s.takeRecordNumber).meters = s.meters ∧ (s.takeRecordNumber).buying = s.buying ∧
      (s.takeRecordNumber).keypad = s.keypad ∧ (s.takeRecordNumber).composer = s.composer ∧
      (s.takeRecordNumber).management = s.management ∧ (s.takeRecordNumber).reply = s.reply ∧
      (s.takeRecordNumber).due = s.due ∧ (s.takeRecordNumber).pending = s.pending :=
  ⟨rfl, rfl, rfl, rfl, rfl, rfl, rfl, rfl, rfl, rfl, rfl, rfl, rfl, rfl, rfl, rfl⟩

/-- Writing a channel entry touches the composer alone. -/
@[simp] theorem State.setEntry_keeps (i : Nat) (e : Option ChannelEntry) (s : State) :
    (s.setEntry i e).powered = s.powered ∧ (s.setEntry i e).second = s.second ∧ (s.setEntry i e).intake = s.intake ∧
      (s.setEntry i e).lanes = s.lanes ∧ (s.setEntry i e).keys = s.keys ∧ (s.setEntry i e).packages = s.packages ∧
      (s.setEntry i e).notices = s.notices ∧ (s.setEntry i e).lock = s.lock ∧ (s.setEntry i e).meters = s.meters ∧
      (s.setEntry i e).buying = s.buying ∧ (s.setEntry i e).store = s.store ∧ (s.setEntry i e).keypad = s.keypad ∧
      (s.setEntry i e).management = s.management ∧ (s.setEntry i e).reply = s.reply ∧ (s.setEntry i e).due = s.due ∧
      (s.setEntry i e).pending = s.pending :=
  ⟨rfl, rfl, rfl, rfl, rfl, rfl, rfl, rfl, rfl, rfl, rfl, rfl, rfl, rfl, rfl, rfl⟩

/-- Writing a slate position touches the composer alone. -/
@[simp] theorem State.setPosition_keeps (k p : Nat) (x : SlatePosition) (s : State) :
    (s.setPosition k p x).powered = s.powered ∧ (s.setPosition k p x).second = s.second ∧
      (s.setPosition k p x).intake = s.intake ∧ (s.setPosition k p x).lanes = s.lanes ∧
      (s.setPosition k p x).keys = s.keys ∧ (s.setPosition k p x).packages = s.packages ∧
      (s.setPosition k p x).notices = s.notices ∧ (s.setPosition k p x).lock = s.lock ∧
      (s.setPosition k p x).meters = s.meters ∧ (s.setPosition k p x).buying = s.buying ∧
      (s.setPosition k p x).store = s.store ∧ (s.setPosition k p x).keypad = s.keypad ∧
      (s.setPosition k p x).management = s.management ∧ (s.setPosition k p x).reply = s.reply ∧
      (s.setPosition k p x).due = s.due ∧ (s.setPosition k p x).pending = s.pending :=
  ⟨rfl, rfl, rfl, rfl, rfl, rfl, rfl, rfl, rfl, rfl, rfl, rfl, rfl, rfl, rfl, rfl⟩

/-- Writing cell intake touches cell intake alone. -/
@[simp] theorem State.withIntake_keeps (k : Intake) (s : State) :
    (s.withIntake k).powered = s.powered ∧ (s.withIntake k).second = s.second ∧ (s.withIntake k).lanes = s.lanes ∧
      (s.withIntake k).keys = s.keys ∧ (s.withIntake k).packages = s.packages ∧
      (s.withIntake k).notices = s.notices ∧ (s.withIntake k).lock = s.lock ∧ (s.withIntake k).meters = s.meters ∧
      (s.withIntake k).buying = s.buying ∧ (s.withIntake k).store = s.store ∧ (s.withIntake k).keypad = s.keypad ∧
      (s.withIntake k).composer = s.composer ∧ (s.withIntake k).management = s.management ∧
      (s.withIntake k).reply = s.reply ∧ (s.withIntake k).due = s.due ∧ (s.withIntake k).pending = s.pending :=
  ⟨rfl, rfl, rfl, rfl, rfl, rfl, rfl, rfl, rfl, rfl, rfl, rfl, rfl, rfl, rfl, rfl⟩

/-! ## The store's queue -/

/-- Starting an operation touches the store alone. -/
@[simp] theorem State.startHead_keeps (s : State) :
    (s.startHead).powered = s.powered ∧ (s.startHead).second = s.second ∧ (s.startHead).intake = s.intake ∧
      (s.startHead).lanes = s.lanes ∧ (s.startHead).keys = s.keys ∧ (s.startHead).packages = s.packages ∧
      (s.startHead).notices = s.notices ∧ (s.startHead).lock = s.lock ∧ (s.startHead).meters = s.meters ∧
      (s.startHead).buying = s.buying ∧ (s.startHead).keypad = s.keypad ∧ (s.startHead).composer = s.composer ∧
      (s.startHead).management = s.management ∧ (s.startHead).reply = s.reply ∧ (s.startHead).due = s.due ∧
      (s.startHead).pending = s.pending := by
  unfold State.startHead; split <;> simp

/-- Queueing an operation touches the store alone. -/
@[simp] theorem State.push_keeps (op : StoreOp) (s : State) :
    (s.push op).powered = s.powered ∧ (s.push op).second = s.second ∧ (s.push op).intake = s.intake ∧
      (s.push op).lanes = s.lanes ∧ (s.push op).keys = s.keys ∧ (s.push op).packages = s.packages ∧
      (s.push op).notices = s.notices ∧ (s.push op).lock = s.lock ∧ (s.push op).meters = s.meters ∧
      (s.push op).buying = s.buying ∧ (s.push op).keypad = s.keypad ∧ (s.push op).composer = s.composer ∧
      (s.push op).management = s.management ∧ (s.push op).reply = s.reply ∧ (s.push op).due = s.due ∧
      (s.push op).pending = s.pending := by
  unfold State.push; dsimp only; split <;> [(split <;> simp); simp]

@[simp] theorem State.pushAll_nil (s : State) : s.pushAll [] = s := rfl

@[simp] theorem State.pushAll_cons (op : StoreOp) (ops : List StoreOp) (s : State) :
    s.pushAll (op :: ops) = (s.push op).pushAll ops := rfl

/-- Queueing operations touches the store alone. -/
@[simp] theorem State.pushAll_keeps (ops : List StoreOp) (s : State) :
    (s.pushAll ops).powered = s.powered ∧ (s.pushAll ops).second = s.second ∧ (s.pushAll ops).intake = s.intake ∧
      (s.pushAll ops).lanes = s.lanes ∧ (s.pushAll ops).keys = s.keys ∧ (s.pushAll ops).packages = s.packages ∧
      (s.pushAll ops).notices = s.notices ∧ (s.pushAll ops).lock = s.lock ∧ (s.pushAll ops).meters = s.meters ∧
      (s.pushAll ops).buying = s.buying ∧ (s.pushAll ops).keypad = s.keypad ∧ (s.pushAll ops).composer = s.composer ∧
      (s.pushAll ops).management = s.management ∧ (s.pushAll ops).reply = s.reply ∧ (s.pushAll ops).due = s.due ∧
      (s.pushAll ops).pending = s.pending := by
  induction ops generalizing s with
  | nil => simp
  | cons op ops ih => simpa using ih (s.push op)

/-- Asking for a WRITE SETTINGS touches the store alone. -/
@[simp] theorem State.requestSettings_keeps (s : State) :
    (s.requestSettings).powered = s.powered ∧ (s.requestSettings).second = s.second ∧
      (s.requestSettings).intake = s.intake ∧ (s.requestSettings).lanes = s.lanes ∧
      (s.requestSettings).keys = s.keys ∧ (s.requestSettings).packages = s.packages ∧
      (s.requestSettings).notices = s.notices ∧ (s.requestSettings).lock = s.lock ∧
      (s.requestSettings).meters = s.meters ∧ (s.requestSettings).buying = s.buying ∧
      (s.requestSettings).keypad = s.keypad ∧ (s.requestSettings).composer = s.composer ∧
      (s.requestSettings).management = s.management ∧ (s.requestSettings).reply = s.reply ∧
      (s.requestSettings).due = s.due ∧ (s.requestSettings).pending = s.pending := by
  unfold State.requestSettings; split <;> [simp; (split <;> simp)]

/-- Asking for an ADVANCE RANGE touches the store alone. -/
@[simp] theorem State.requestRange_keeps (t : RangeTarget) (ns : List Nat) (s : State) :
    (s.requestRange t ns).powered = s.powered ∧ (s.requestRange t ns).second = s.second ∧
      (s.requestRange t ns).intake = s.intake ∧ (s.requestRange t ns).lanes = s.lanes ∧
      (s.requestRange t ns).keys = s.keys ∧ (s.requestRange t ns).packages = s.packages ∧
      (s.requestRange t ns).notices = s.notices ∧ (s.requestRange t ns).lock = s.lock ∧
      (s.requestRange t ns).meters = s.meters ∧ (s.requestRange t ns).buying = s.buying ∧
      (s.requestRange t ns).keypad = s.keypad ∧ (s.requestRange t ns).composer = s.composer ∧
      (s.requestRange t ns).management = s.management ∧ (s.requestRange t ns).reply = s.reply ∧
      (s.requestRange t ns).due = s.due ∧ (s.requestRange t ns).pending = s.pending := by
  unfold State.requestRange; split <;> simp

/-- The scan list feeds the store alone. -/
@[simp] theorem State.takeScanList_keeps (s : State) :
    (s.takeScanList).powered = s.powered ∧ (s.takeScanList).second = s.second ∧ (s.takeScanList).intake = s.intake ∧
      (s.takeScanList).lanes = s.lanes ∧ (s.takeScanList).keys = s.keys ∧ (s.takeScanList).packages = s.packages ∧
      (s.takeScanList).notices = s.notices ∧ (s.takeScanList).lock = s.lock ∧ (s.takeScanList).meters = s.meters ∧
      (s.takeScanList).buying = s.buying ∧ (s.takeScanList).keypad = s.keypad ∧
      (s.takeScanList).composer = s.composer ∧ (s.takeScanList).management = s.management ∧
      (s.takeScanList).reply = s.reply ∧ (s.takeScanList).due = s.due ∧ (s.takeScanList).pending = s.pending := by
  unfold State.takeScanList; split <;> [simp; (split <;> simp)]

/-- The marking list feeds the store. -/
@[simp] theorem State.takeMarking_keeps (s : State) :
    (s.takeMarking).powered = s.powered ∧ (s.takeMarking).second = s.second ∧ (s.takeMarking).intake = s.intake ∧
      (s.takeMarking).lanes = s.lanes ∧ (s.takeMarking).keys = s.keys ∧ (s.takeMarking).packages = s.packages ∧
      (s.takeMarking).notices = s.notices ∧ (s.takeMarking).lock = s.lock ∧ (s.takeMarking).meters = s.meters ∧
      (s.takeMarking).keypad = s.keypad ∧ (s.takeMarking).composer = s.composer ∧
      (s.takeMarking).management = s.management ∧ (s.takeMarking).reply = s.reply ∧ (s.takeMarking).due = s.due ∧
      (s.takeMarking).pending = s.pending := by
  unfold State.takeMarking; split <;> [simp; (split <;> simp)]

/-- Filling the room a completion leaves touches the store and the purchase unit alone. -/
@[simp] theorem State.fillRoom_keeps (s : State) :
    (s.fillRoom).powered = s.powered ∧ (s.fillRoom).second = s.second ∧ (s.fillRoom).intake = s.intake ∧
      (s.fillRoom).lanes = s.lanes ∧ (s.fillRoom).keys = s.keys ∧ (s.fillRoom).packages = s.packages ∧
      (s.fillRoom).notices = s.notices ∧ (s.fillRoom).lock = s.lock ∧ (s.fillRoom).meters = s.meters ∧
      (s.fillRoom).keypad = s.keypad ∧ (s.fillRoom).composer = s.composer ∧ (s.fillRoom).management = s.management ∧
      (s.fillRoom).reply = s.reply ∧ (s.fillRoom).due = s.due ∧ (s.fillRoom).pending = s.pending := by
  simp [State.fillRoom]

/-- Starting a close's operations touches the store alone. -/
@[simp] theorem State.startClose_keeps (s : State) :
    (s.startClose).powered = s.powered ∧ (s.startClose).second = s.second ∧ (s.startClose).intake = s.intake ∧
      (s.startClose).lanes = s.lanes ∧ (s.startClose).keys = s.keys ∧ (s.startClose).packages = s.packages ∧
      (s.startClose).notices = s.notices ∧ (s.startClose).lock = s.lock ∧ (s.startClose).meters = s.meters ∧
      (s.startClose).buying = s.buying ∧ (s.startClose).keypad = s.keypad ∧ (s.startClose).composer = s.composer ∧
      (s.startClose).management = s.management ∧ (s.startClose).reply = s.reply ∧ (s.startClose).due = s.due ∧
      (s.startClose).pending = s.pending := by
  unfold State.startClose; split <;> simp

/-- Starting the next operation touches the store and the marking list alone. -/
@[simp] theorem State.startNext_keeps (more : Nat) (s : State) :
    (s.startNext more).powered = s.powered ∧ (s.startNext more).second = s.second ∧ (s.startNext more).intake =
      s.intake ∧ (s.startNext more).lanes = s.lanes ∧ (s.startNext more).keys = s.keys ∧ (s.startNext
      more).packages = s.packages ∧ (s.startNext more).notices = s.notices ∧ (s.startNext more).lock = s.lock ∧
      (s.startNext more).meters = s.meters ∧ (s.startNext more).keypad = s.keypad ∧ (s.startNext more).composer =
      s.composer ∧ (s.startNext more).management = s.management ∧ (s.startNext more).reply = s.reply ∧
      (s.startNext more).due = s.due ∧ (s.startNext more).pending = s.pending := by
  induction more generalizing s with
  | zero => simp [State.startNext]
  | succ more ih =>
    unfold State.startNext
    split
    · simp [ih]
    · simp

/-- What follows a completion in the queue touches the store and the marking list alone. -/
@[simp] theorem State.proceed_keeps (op : StoreOp) (s : State) :
    (s.proceed op).powered = s.powered ∧ (s.proceed op).second = s.second ∧ (s.proceed op).intake = s.intake ∧
      (s.proceed op).lanes = s.lanes ∧ (s.proceed op).keys = s.keys ∧ (s.proceed op).packages = s.packages ∧
      (s.proceed op).notices = s.notices ∧ (s.proceed op).lock = s.lock ∧ (s.proceed op).meters = s.meters ∧
      (s.proceed op).keypad = s.keypad ∧ (s.proceed op).composer = s.composer ∧ (s.proceed op).management =
      s.management ∧ (s.proceed op).reply = s.reply ∧ (s.proceed op).due = s.due ∧ (s.proceed op).pending =
      s.pending := by
  unfold State.proceed; split <;> simp

/-- Marking a record PREVIEWED touches the store and the purchase unit alone. -/
@[simp] theorem State.markPreviewed_keeps (n : Nat) (s : State) :
    (s.markPreviewed n).powered = s.powered ∧ (s.markPreviewed n).second = s.second ∧
      (s.markPreviewed n).intake = s.intake ∧ (s.markPreviewed n).lanes = s.lanes ∧
      (s.markPreviewed n).keys = s.keys ∧ (s.markPreviewed n).packages = s.packages ∧
      (s.markPreviewed n).notices = s.notices ∧ (s.markPreviewed n).lock = s.lock ∧
      (s.markPreviewed n).meters = s.meters ∧ (s.markPreviewed n).keypad = s.keypad ∧
      (s.markPreviewed n).composer = s.composer ∧ (s.markPreviewed n).management = s.management ∧
      (s.markPreviewed n).reply = s.reply ∧ (s.markPreviewed n).due = s.due ∧
      (s.markPreviewed n).pending = s.pending := by
  unfold State.markPreviewed; split <;> [(split <;> simp); simp]

/-! ## Previews and completions -/

/-- A preview's begin touches the store, the meter bank and the purchase unit alone. -/
@[simp] theorem State.beginPreview_keeps (n : Nat) (p : Programme) (s : State) :
    (s.beginPreview n p).powered = s.powered ∧ (s.beginPreview n p).second = s.second ∧
      (s.beginPreview n p).intake = s.intake ∧ (s.beginPreview n p).lanes = s.lanes ∧
      (s.beginPreview n p).keys = s.keys ∧ (s.beginPreview n p).packages = s.packages ∧
      (s.beginPreview n p).notices = s.notices ∧ (s.beginPreview n p).lock = s.lock ∧
      (s.beginPreview n p).keypad = s.keypad ∧ (s.beginPreview n p).composer = s.composer ∧
      (s.beginPreview n p).management = s.management ∧ (s.beginPreview n p).reply = s.reply ∧
      (s.beginPreview n p).due = s.due ∧ (s.beginPreview n p).pending = s.pending := by
  unfold State.beginPreview; split <;> simp

/-- A preview's end touches the store, the meter bank and the purchase unit alone. -/
@[simp] theorem State.endPreview_keeps (p : Preview) (s : State) :
    (s.endPreview p).powered = s.powered ∧ (s.endPreview p).second = s.second ∧ (s.endPreview p).intake = s.intake ∧
      (s.endPreview p).lanes = s.lanes ∧ (s.endPreview p).keys = s.keys ∧ (s.endPreview p).packages = s.packages ∧
      (s.endPreview p).notices = s.notices ∧ (s.endPreview p).lock = s.lock ∧ (s.endPreview p).keypad = s.keypad ∧
      (s.endPreview p).composer = s.composer ∧ (s.endPreview p).management = s.management ∧
      (s.endPreview p).reply = s.reply ∧ (s.endPreview p).due = s.due ∧ (s.endPreview p).pending = s.pending := by
  simp [State.endPreview]

/-- Ending previews one after another. -/
theorem State.endPreviews_keeps (ps : List Preview) (s : State) :
    let t := ps.foldl (fun s p => s.endPreview p) s
    t.powered = s.powered ∧ t.second = s.second ∧ t.intake = s.intake ∧ t.lanes = s.lanes ∧ t.keys = s.keys ∧
      t.packages = s.packages ∧ t.notices = s.notices ∧ t.lock = s.lock ∧ t.keypad = s.keypad ∧
      t.composer = s.composer ∧ t.management = s.management ∧ t.reply = s.reply ∧ t.due = s.due ∧
      t.pending = s.pending := by
  induction ps generalizing s with
  | nil => simp
  | cons p ps ih => simpa using ih (s.endPreview p)

/-- A change of programme touches the store, the meter bank and the purchase unit alone. -/
@[simp] theorem State.programmeChanged_keeps (n : Nat) (s : State) :
    (s.programmeChanged n).powered = s.powered ∧ (s.programmeChanged n).second = s.second ∧
      (s.programmeChanged n).intake = s.intake ∧ (s.programmeChanged n).lanes = s.lanes ∧
      (s.programmeChanged n).keys = s.keys ∧ (s.programmeChanged n).packages = s.packages ∧
      (s.programmeChanged n).notices = s.notices ∧ (s.programmeChanged n).lock = s.lock ∧
      (s.programmeChanged n).keypad = s.keypad ∧ (s.programmeChanged n).composer = s.composer ∧
      (s.programmeChanged n).management = s.management ∧ (s.programmeChanged n).reply = s.reply ∧
      (s.programmeChanged n).due = s.due ∧ (s.programmeChanged n).pending = s.pending := by
  have h := State.endPreviews_keeps (s.buying.previews.filter fun p => p.channel == n && p.state == .running) s
  unfold State.programmeChanged
  dsimp only at h ⊢
  split <;> [(split <;> simp [h]); simp [h]]

/-- A commit's completion touches the meter bank, the purchase unit and the flags alone. -/
@[simp] theorem State.commitOk_keeps (n : Nat) (s : State) :
    (s.commitOk n).powered = s.powered ∧ (s.commitOk n).second = s.second ∧ (s.commitOk n).intake = s.intake ∧
      (s.commitOk n).lanes = s.lanes ∧ (s.commitOk n).keys = s.keys ∧ (s.commitOk n).packages = s.packages ∧
      (s.commitOk n).notices = s.notices ∧ (s.commitOk n).lock = s.lock ∧ (s.commitOk n).store = s.store ∧
      (s.commitOk n).keypad = s.keypad ∧ (s.commitOk n).composer = s.composer ∧
      (s.commitOk n).management = s.management ∧ (s.commitOk n).due = s.due ∧ (s.commitOk n).pending = s.pending := by
  unfold State.commitOk; split <;> simp

/-- A commit's failure touches the meter bank and the purchase unit alone. -/
@[simp] theorem State.commitFails_keeps (n : Nat) (s : State) :
    (s.commitFails n).powered = s.powered ∧ (s.commitFails n).second = s.second ∧
      (s.commitFails n).intake = s.intake ∧ (s.commitFails n).lanes = s.lanes ∧ (s.commitFails n).keys = s.keys ∧
      (s.commitFails n).packages = s.packages ∧ (s.commitFails n).notices = s.notices ∧
      (s.commitFails n).lock = s.lock ∧ (s.commitFails n).store = s.store ∧ (s.commitFails n).keypad = s.keypad ∧
      (s.commitFails n).composer = s.composer ∧ (s.commitFails n).management = s.management ∧
      (s.commitFails n).reply = s.reply ∧ (s.commitFails n).due = s.due ∧ (s.commitFails n).pending = s.pending := by
  unfold State.commitFails; split <;> simp

/-- An extension's completion touches the meter bank and the purchase unit alone. -/
@[simp] theorem State.extensionOk_keeps (n m : Nat) (s : State) :
    (s.extensionOk n m).powered = s.powered ∧ (s.extensionOk n m).second = s.second ∧
      (s.extensionOk n m).intake = s.intake ∧ (s.extensionOk n m).lanes = s.lanes ∧
      (s.extensionOk n m).keys = s.keys ∧ (s.extensionOk n m).packages = s.packages ∧
      (s.extensionOk n m).notices = s.notices ∧ (s.extensionOk n m).lock = s.lock ∧
      (s.extensionOk n m).store = s.store ∧ (s.extensionOk n m).keypad = s.keypad ∧
      (s.extensionOk n m).composer = s.composer ∧ (s.extensionOk n m).management = s.management ∧
      (s.extensionOk n m).reply = s.reply ∧ (s.extensionOk n m).due = s.due ∧
      (s.extensionOk n m).pending = s.pending := by
  unfold State.extensionOk; split <;> [simp; (split <;> simp)]

/-- An extension's failure touches the purchase unit alone. -/
@[simp] theorem State.extensionFails_keeps (n : Nat) (s : State) :
    (s.extensionFails n).powered = s.powered ∧ (s.extensionFails n).second = s.second ∧
      (s.extensionFails n).intake = s.intake ∧ (s.extensionFails n).lanes = s.lanes ∧
      (s.extensionFails n).keys = s.keys ∧ (s.extensionFails n).packages = s.packages ∧
      (s.extensionFails n).notices = s.notices ∧ (s.extensionFails n).lock = s.lock ∧
      (s.extensionFails n).meters = s.meters ∧ (s.extensionFails n).store = s.store ∧
      (s.extensionFails n).keypad = s.keypad ∧ (s.extensionFails n).composer = s.composer ∧
      (s.extensionFails n).management = s.management ∧ (s.extensionFails n).reply = s.reply ∧
      (s.extensionFails n).due = s.due ∧ (s.extensionFails n).pending = s.pending := by
  simp [State.extensionFails]

/-- An OK touches the meter bank, the purchase unit and the flags alone. -/
@[simp] theorem State.requesterOk_keeps (op : StoreOp) (s : State) :
    (s.requesterOk op).powered = s.powered ∧ (s.requesterOk op).second = s.second ∧
      (s.requesterOk op).intake = s.intake ∧ (s.requesterOk op).lanes = s.lanes ∧ (s.requesterOk op).keys = s.keys ∧
      (s.requesterOk op).packages = s.packages ∧ (s.requesterOk op).notices = s.notices ∧
      (s.requesterOk op).lock = s.lock ∧ (s.requesterOk op).store = s.store ∧ (s.requesterOk op).keypad = s.keypad ∧
      (s.requesterOk op).composer = s.composer ∧ (s.requesterOk op).management = s.management ∧
      (s.requesterOk op).due = s.due ∧ (s.requesterOk op).pending = s.pending := by
  unfold State.requesterOk; split <;> (try split) <;> simp

/-- A FAIL touches the meter bank and the purchase unit alone. -/
@[simp] theorem State.requesterFail_keeps (op : StoreOp) (s : State) :
    (s.requesterFail op).powered = s.powered ∧ (s.requesterFail op).second = s.second ∧
      (s.requesterFail op).intake = s.intake ∧ (s.requesterFail op).lanes = s.lanes ∧
      (s.requesterFail op).keys = s.keys ∧ (s.requesterFail op).packages = s.packages ∧
      (s.requesterFail op).notices = s.notices ∧ (s.requesterFail op).lock = s.lock ∧
      (s.requesterFail op).store = s.store ∧ (s.requesterFail op).keypad = s.keypad ∧
      (s.requesterFail op).composer = s.composer ∧ (s.requesterFail op).management = s.management ∧
      (s.requesterFail op).reply = s.reply ∧ (s.requesterFail op).due = s.due ∧
      (s.requesterFail op).pending = s.pending := by
  unfold State.requesterFail; split <;> (try split) <;> simp

/-! ## The re-decision -/

/-- Ending a stale UNLOCK collection touches the rating lock alone. -/
@[simp] theorem State.endStaleUnlock_keeps (s : State) :
    (s.endStaleUnlock).powered = s.powered ∧ (s.endStaleUnlock).second = s.second ∧
      (s.endStaleUnlock).intake = s.intake ∧ (s.endStaleUnlock).lanes = s.lanes ∧ (s.endStaleUnlock).keys = s.keys ∧
      (s.endStaleUnlock).packages = s.packages ∧ (s.endStaleUnlock).notices = s.notices ∧
      (s.endStaleUnlock).meters = s.meters ∧ (s.endStaleUnlock).buying = s.buying ∧
      (s.endStaleUnlock).store = s.store ∧ (s.endStaleUnlock).keypad = s.keypad ∧
      (s.endStaleUnlock).composer = s.composer ∧ (s.endStaleUnlock).management = s.management ∧
      (s.endStaleUnlock).reply = s.reply ∧ (s.endStaleUnlock).due = s.due ∧ (s.endStaleUnlock).pending = s.pending := by
  unfold State.endStaleUnlock; split <;> [(split <;> simp); simp]

/-- The preview an answer begins touches the store, the meter bank and the purchase unit alone. -/
@[simp] theorem State.askedPreview_keeps (e : ChannelEntry) (s : State) :
    (s.askedPreview e).powered = s.powered ∧ (s.askedPreview e).second = s.second ∧
      (s.askedPreview e).intake = s.intake ∧ (s.askedPreview e).lanes = s.lanes ∧ (s.askedPreview e).keys = s.keys ∧
      (s.askedPreview e).packages = s.packages ∧ (s.askedPreview e).notices = s.notices ∧
      (s.askedPreview e).lock = s.lock ∧ (s.askedPreview e).keypad = s.keypad ∧
      (s.askedPreview e).composer = s.composer ∧ (s.askedPreview e).management = s.management ∧
      (s.askedPreview e).reply = s.reply ∧ (s.askedPreview e).due = s.due ∧ (s.askedPreview e).pending = s.pending := by
  unfold State.askedPreview; split <;> simp

/-- A re-decision touches no other block. -/
@[simp] theorem State.redecide_keeps (s : State) :
    (s.redecide).powered = s.powered ∧ (s.redecide).second = s.second ∧ (s.redecide).intake = s.intake ∧
      (s.redecide).lanes = s.lanes ∧ (s.redecide).keys = s.keys ∧ (s.redecide).packages = s.packages ∧
      (s.redecide).notices = s.notices ∧ (s.redecide).keypad = s.keypad ∧ (s.redecide).management = s.management ∧
      (s.redecide).reply = s.reply ∧ (s.redecide).due = s.due ∧ (s.redecide).pending = s.pending := by
  unfold State.redecide; split <;> simp

/-- A slate's start touches the composer alone. -/
@[simp] theorem State.beginSlate_keeps (s : State) :
    (s.beginSlate).powered = s.powered ∧ (s.beginSlate).second = s.second ∧ (s.beginSlate).intake = s.intake ∧
      (s.beginSlate).lanes = s.lanes ∧ (s.beginSlate).keys = s.keys ∧ (s.beginSlate).packages = s.packages ∧
      (s.beginSlate).notices = s.notices ∧ (s.beginSlate).lock = s.lock ∧ (s.beginSlate).meters = s.meters ∧
      (s.beginSlate).buying = s.buying ∧ (s.beginSlate).store = s.store ∧ (s.beginSlate).keypad = s.keypad ∧
      (s.beginSlate).management = s.management ∧ (s.beginSlate).reply = s.reply ∧ (s.beginSlate).due = s.due ∧
      (s.beginSlate).pending = s.pending := by
  unfold State.beginSlate; split <;> simp

/-- Changing lanes one after another touches the lane table alone. -/
theorem State.foldLanes_keeps (g : State → Nat → Lane) (is : List Nat) (s : State) :
    let t := is.foldl (fun s i => s.setLane i (g s i)) s
    { t with lanes := s.lanes } = s := by
  induction is generalizing s with
  | nil => rfl
  | cons i is ih =>
    have h := ih (s.setLane i (g s i))
    dsimp only [List.foldl] at h ⊢
    have h2 := congrArg (fun u : State => { u with lanes := s.lanes }) h
    exact h2

/-- Draining lanes touches the lane table alone. -/
theorem State.drainLanes_only (e : ChannelEntry) (s : State) : { s.drainLanes e with lanes := s.lanes } = s :=
  State.foldLanes_keeps (fun s i => (s.lane i).drained) e.lanes s

/-- Untuning lanes touches the lane table alone. -/
theorem State.untuneLanes_only (old : ChannelEntry) (new : Option ChannelEntry) (s : State) :
    { s.untuneLanes old new with lanes := s.lanes } = s :=
  State.foldLanes_keeps (fun s i => (s.lane i).untuned) _ s

/-- Draining lanes touches the lane table alone. -/
@[simp] theorem State.drainLanes_keeps (e : ChannelEntry) (s : State) :
    (s.drainLanes e).powered = s.powered ∧ (s.drainLanes e).second = s.second ∧ (s.drainLanes e).intake = s.intake ∧
      (s.drainLanes e).keys = s.keys ∧ (s.drainLanes e).packages = s.packages ∧
      (s.drainLanes e).notices = s.notices ∧ (s.drainLanes e).lock = s.lock ∧ (s.drainLanes e).meters = s.meters ∧
      (s.drainLanes e).buying = s.buying ∧ (s.drainLanes e).store = s.store ∧ (s.drainLanes e).keypad = s.keypad ∧
      (s.drainLanes e).composer = s.composer ∧ (s.drainLanes e).management = s.management ∧
      (s.drainLanes e).reply = s.reply ∧ (s.drainLanes e).due = s.due ∧ (s.drainLanes e).pending = s.pending := by
  have h : s.drainLanes e = { s with lanes := (s.drainLanes e).lanes } :=
    congrArg (fun u : State => { u with lanes := (s.drainLanes e).lanes }) (State.drainLanes_only e s)
  rw [h]; simp

/-- Untuning lanes touches the lane table alone. -/
@[simp] theorem State.untuneLanes_keeps (old : ChannelEntry) (new : Option ChannelEntry) (s : State) :
    (s.untuneLanes old new).powered = s.powered ∧ (s.untuneLanes old new).second = s.second ∧
      (s.untuneLanes old new).intake = s.intake ∧ (s.untuneLanes old new).keys = s.keys ∧
      (s.untuneLanes old new).packages = s.packages ∧ (s.untuneLanes old new).notices = s.notices ∧
      (s.untuneLanes old new).lock = s.lock ∧ (s.untuneLanes old new).meters = s.meters ∧
      (s.untuneLanes old new).buying = s.buying ∧ (s.untuneLanes old new).store = s.store ∧
      (s.untuneLanes old new).keypad = s.keypad ∧ (s.untuneLanes old new).composer = s.composer ∧
      (s.untuneLanes old new).management = s.management ∧ (s.untuneLanes old new).reply = s.reply ∧
      (s.untuneLanes old new).due = s.due ∧ (s.untuneLanes old new).pending = s.pending := by
  have h : s.untuneLanes old new = { s with lanes := (s.untuneLanes old new).lanes } :=
    congrArg (fun u : State => { u with lanes := (s.untuneLanes old new).lanes }) (State.untuneLanes_only old new s)
  rw [h]; simp

/-- Following the output state touches the lanes and the composer alone. -/
@[simp] theorem State.followOutput_keeps (s : State) :
    (s.followOutput).powered = s.powered ∧ (s.followOutput).second = s.second ∧ (s.followOutput).intake = s.intake ∧
      (s.followOutput).keys = s.keys ∧ (s.followOutput).packages = s.packages ∧
      (s.followOutput).notices = s.notices ∧ (s.followOutput).lock = s.lock ∧ (s.followOutput).meters = s.meters ∧
      (s.followOutput).buying = s.buying ∧ (s.followOutput).store = s.store ∧ (s.followOutput).keypad = s.keypad ∧
      (s.followOutput).management = s.management ∧ (s.followOutput).reply = s.reply ∧ (s.followOutput).due = s.due ∧
      (s.followOutput).pending = s.pending := by
  unfold State.followOutput; split <;> [simp; (dsimp only; split <;> split <;> simp)]

/-- What ends a command touches no other block. -/
@[simp] theorem State.finish_keeps (s : State) :
    (s.finish).powered = s.powered ∧ (s.finish).second = s.second ∧ (s.finish).intake = s.intake ∧
      (s.finish).keys = s.keys ∧ (s.finish).packages = s.packages ∧ (s.finish).notices = s.notices ∧
      (s.finish).keypad = s.keypad ∧ (s.finish).management = s.management ∧ (s.finish).reply = s.reply ∧
      (s.finish).due = s.due ∧ (s.finish).pending = s.pending := by
  simp [State.finish]

/-- A tune touches no other block. -/
@[simp] theorem State.tune_keeps (n : Nat) (s : State) :
    (s.tune n).powered = s.powered ∧ (s.tune n).second = s.second ∧ (s.tune n).intake = s.intake ∧
      (s.tune n).keys = s.keys ∧ (s.tune n).packages = s.packages ∧ (s.tune n).notices = s.notices ∧
      (s.tune n).keypad = s.keypad ∧ (s.tune n).management = s.management ∧ (s.tune n).reply = s.reply ∧
      (s.tune n).due = s.due ∧ (s.tune n).pending = s.pending := by
  unfold State.tune; split <;> [simp; (dsimp only; split <;> simp)]

/-- Losing the tuned channel touches no other block. -/
@[simp] theorem State.untune_keeps (old : ChannelEntry) (s : State) :
    (s.untune old).powered = s.powered ∧ (s.untune old).second = s.second ∧ (s.untune old).intake = s.intake ∧
      (s.untune old).keys = s.keys ∧ (s.untune old).packages = s.packages ∧ (s.untune old).notices = s.notices ∧
      (s.untune old).meters = s.meters ∧ (s.untune old).store = s.store ∧ (s.untune old).keypad = s.keypad ∧
      (s.untune old).management = s.management ∧ (s.untune old).reply = s.reply ∧ (s.untune old).due = s.due ∧
      (s.untune old).pending = s.pending := by
  simp [State.untune]

end Sys2Proof.Machine
end

