-- ==== Sys2Proof/Laws/Redecide.lean ====
section
/-!
SUPPORT. What a lane write leaves in each lane, and everything a re-decision can do (R163, R166 to R169), said once.
-/

namespace Sys2Proof.Machine

/-! ## Lanes -/

theorem State.lane_setLane (s : State) (i j : Nat) (l : Lane) :
    (s.setLane i l).lane j = if i = j ∧ j < s.lanes.length then l else s.lane j := by
  unfold State.lane State.setLane
  simp only [List.getD_eq_getElem?_getD, List.getElem?_set]
  by_cases h : i = j
  · subst h
    by_cases h2 : i < s.lanes.length
    · simp [h2]
    · simp [h2]
  · simp [h]

theorem State.lane_setLane_ne (s : State) {i j : Nat} (l : Lane) (h : i ≠ j) : (s.setLane i l).lane j = s.lane j := by
  simp [State.lane_setLane, h]

theorem State.lane_of_lanes {s t : State} (h : t.lanes = s.lanes) (i : Nat) : t.lane i = s.lane i := by
  unfold State.lane
  rw [h]

/-- Draining a lane takes exactly what it can discard (R168). -/
theorem Lane.drained_eq (l : Lane) : l.drained = { l with area := l.undiscarded } := by
  unfold Lane.drained Lane.undiscarded
  split <;> rfl

theorem Lane.undiscarded_suffix (l : Lane) : l.undiscarded <:+ l.area := by
  unfold Lane.undiscarded
  split
  · exact List.dropWhile_suffix _
  · exact List.suffix_refl _

theorem Lane.drained_drained (l : Lane) : l.drained.drained = l.drained := by
  have h : ∀ xs : List AreaCell, (xs.dropWhile fun c => !c.held).dropWhile (fun c => !c.held)
      = xs.dropWhile fun c => !c.held := by
    intro xs
    induction xs with
    | nil => rfl
    | cons x xs ih => cases hx : x.held <;> simp [hx, ih]
  unfold Lane.drained
  split
  · simp only [h]
  · rfl

/-- A change of listed lanes that fixes an unloaded lane and is the same done twice changes each of them once. -/
theorem State.lane_changeAll (g : Lane → Lane) (h0 : g Lane.initial = Lane.initial) (hg : ∀ l, g (g l) = g l)
    (is : List Nat) (s : State) (j : Nat) :
    (is.foldl (fun s i => s.setLane i (g (s.lane i))) s).lane j = if j ∈ is then g (s.lane j) else s.lane j := by
  have one : ∀ (s : State) (i : Nat), (s.setLane i (g (s.lane i))).lane j = if i = j then g (s.lane j) else s.lane j := by
    intro s i
    rw [State.lane_setLane]
    by_cases h : i = j
    · subst h
      by_cases h2 : i < s.lanes.length
      · simp [h2]
      · have : s.lane i = Lane.initial := by
          unfold State.lane
          rw [List.getD_eq_getElem?_getD, List.getElem?_eq_none (Nat.not_lt.1 h2)]
          rfl
        simp [h2, this, h0]
    · simp [h]
  induction is generalizing s with
  | nil => rfl
  | cons i is ih =>
    simp only [List.foldl_cons]
    rw [ih, one]
    by_cases h1 : i = j
    · subst h1
      by_cases h2 : i ∈ is <;> simp [h2, hg]
    · by_cases h2 : j ∈ is <;> simp [h1, h2, Ne.symm h1]

theorem ChannelEntry.mem_lanes (e : ChannelEntry) (i : Nat) : i ∈ e.lanes ↔ e.names i = true := by
  unfold ChannelEntry.lanes ChannelEntry.names
  cases e.sound with
  | none => simp [eq_comm (a := i)]
  | some x => simp [eq_comm (a := i)]

/-- What discarding takes: the offered cells of the lanes the entry names (R168). -/
theorem State.lane_drainLanes (e : ChannelEntry) (s : State) (j : Nat) : (s.drainLanes e).lane j =
    if e.names j = true then { s.lane j with area := (s.lane j).undiscarded } else s.lane j := by
  unfold State.drainLanes
  rw [State.lane_changeAll Lane.drained rfl Lane.drained_drained]
  simp only [ChannelEntry.mem_lanes, Lane.drained_eq]

/-! ## Lanes that cease to be tuned -/

theorem Lane.untuned_initial : Lane.initial.untuned = Lane.initial := rfl

theorem Lane.untuned_untuned (l : Lane) : l.untuned.untuned = l.untuned := by
  unfold Lane.untuned
  cases l.keyStatus <;> rfl

/-- Which lanes cease to be tuned: those the old entry names and the new one does not (R160, R161). -/
theorem State.lane_untuneLanes (old : ChannelEntry) (new : Option ChannelEntry) (s : State) (j : Nat) :
    (s.untuneLanes old new).lane j =
      if old.names j = true ∧ (new.any fun e => e.names j) = false then (s.lane j).untuned else s.lane j := by
  unfold State.untuneLanes
  rw [State.lane_changeAll Lane.untuned Lane.untuned_initial Lane.untuned_untuned]
  simp [List.mem_filter, ChannelEntry.mem_lanes]

/-! ## The tuned channel -/

/-- The tuned channel's entry is read from the tuned channel and the channel table alone. -/
theorem State.tunedEntry_congr {s t : State} (h1 : t.composer.tuned = s.composer.tuned)
    (h2 : t.composer.channels = s.composer.channels) : t.tunedEntry = s.tunedEntry := by
  unfold State.tunedEntry
  rw [h1]
  congr 1
  funext n
  unfold State.entry State.entryIndex State.entryAt
  rw [h2]

@[simp] theorem Composer.decided_keeps (c : Composer) (now : Word32) (v : View) :
    (c.decided now v).channels = c.channels ∧ (c.decided now v).tuned = c.tuned
      ∧ (c.decided now v).cutMode = c.cutMode ∧ (c.decided now v).slates = c.slates
      ∧ (c.decided now v).port = c.port ∧ (c.decided now v).decision = some v := by
  unfold Composer.decided
  split <;> simp_all

/-- A preview begins only where it can (R102, R103). -/
theorem State.viewDecision_preview (s : State) (e : ChannelEntry) (h : (s.viewDecision e).2 = true) :
    ∃ p, s.current e.number = some p ∧ s.canPreview p = true := by
  unfold State.viewDecision at h
  dsimp only at h
  split at h
  · cases h
  · split at h <;> try cases h
    split at h
    · cases h
    · split at h <;> try cases h
      rename_i ha
      unfold State.saleAnswer at ha
      split at ha
      · cases ha
      · rename_i p hp
        refine ⟨p, hp, ?_⟩
        split at ha
        · cases ha
        · unfold State.answer at ha
          split at ha
          · cases ha
          · split at ha
            · cases ha
            · split at ha
              · cases ha
              · split at ha
                · cases ha
                · split at ha
                  · cases ha
                  · split at ha
                    · assumption
                    · split at ha <;> cases ha

/-! ## The re-decision -/

/-- The composer after a re-decision. -/
theorem State.redecide_composer (s : State) (e : ChannelEntry) (h : s.tunedEntry = some e) :
    s.redecide.composer = s.composer.decided s.second (s.viewDecision e).1 := by
  unfold State.redecide
  simp [h]

/-- What the asking does: a preview begins exactly if the decision asks for one (R102, R103). -/
theorem State.askedPreview_eq (s : State) (e : ChannelEntry) :
    ((s.viewDecision e).2 = true → ∃ p, s.current e.number = some p ∧ s.canPreview p = true
      ∧ s.askedPreview e = s.beginPreview e.number p) ∧ ((s.viewDecision e).2 = false → s.askedPreview e = s) := by
  constructor
  · intro h
    obtain ⟨p, hp, hc⟩ := s.viewDecision_preview e h
    exact ⟨p, hp, hc, by simp [State.askedPreview, h, hp]⟩
  · intro h
    simp [State.askedPreview, h]

/-- Ending a stale UNLOCK collection touches PIN entry alone (R69). -/
theorem State.endStaleUnlock_lock (s : State) (v : View) (h : s.composer.decision = some v) :
    { s.endStaleUnlock.lock with entry := s.lock.entry } = s.lock
      ∧ s.endStaleUnlock.lock.entry = pinEntryAfter s.lock.entry s.composer.tuned v := by
  unfold State.endStaleUnlock pinEntryAfter
  rw [h]
  cases hl : s.lock.entry with
  | unlock n ds k =>
    dsimp only
    by_cases hc : s.composer.tuned = some n ∧ v = .slate .pin
    · rw [if_pos ⟨hc.1, by rw [hc.2]⟩, if_pos hc]
      exact ⟨by rw [← hl], hl⟩
    · rw [if_neg (by simpa using hc), if_neg hc]
      exact ⟨by rw [← hl], rfl⟩
  | idle => exact ⟨by dsimp only; rw [← hl], hl⟩
  | rateDigit k => exact ⟨by dsimp only; rw [← hl], hl⟩
  | raise d ds k => exact ⟨by dsimp only; rw [← hl], hl⟩

theorem State.redecide_lock (s : State) (e : ChannelEntry) (he : s.tunedEntry = some e) :
    { s.redecide.lock with entry := s.lock.entry } = s.lock
      ∧ s.redecide.lock.entry = pinEntryAfter s.lock.entry s.composer.tuned (s.viewDecision e).1 := by
  have h := State.endStaleUnlock_lock
    { s.askedPreview e with composer := (s.askedPreview e).composer.decided (s.askedPreview e).second (s.viewDecision e).1 }
    (s.viewDecision e).1 (by simp)
  unfold State.redecide
  rw [he]
  simpa using h

/-! ## Following the output -/

theorem State.beginSlate_composer (s : State) (o : OutputState) :
    { s.beginSlate.composer with output := o } = { s.composer with output := o } := by
  unfold State.beginSlate
  split <;> rfl

/-- Following the output changes the composer's output state alone. -/
theorem State.followOutput_composer (s : State) (o : OutputState) :
    { s.followOutput.composer with output := o } = { s.composer with output := o } := by
  unfold State.followOutput
  split
  · rfl
  · dsimp only
    split <;> split <;> simp [State.beginSlate_composer]

/-- The output state that following leaves: the slate where a cut has reached its end (R167). -/
theorem State.followOutput_output (s : State) (e : ChannelEntry) (he : s.tunedEntry = some e) :
    s.followOutput.composer.output =
      if s.cutReached e = true then s.beginSlate.composer.output else s.composer.output := by
  unfold State.followOutput
  rw [he]
  dsimp only
  split <;> split <;> simp

/-- The first cell a lane offers (R23, R32). -/
theorem Lane.offered_head (l : Lane) (c : AreaCell) : l.offered.head? = some c ↔ NextOffered l c := by
  unfold Lane.offered NextOffered
  by_cases h : l.response = .pass
  · simp only [h, if_true, true_and]
    cases l.area with
    | nil => simp
    | cons x xs =>
      cases hx : x.held
      · simp only [List.takeWhile_cons, hx, Bool.not_false, if_true, List.head?_cons, Option.some.injEq]
        constructor
        · rintro rfl; exact ⟨rfl, hx⟩
        · exact fun h => h.1
      · simp only [List.takeWhile_cons, hx, Bool.not_true, Bool.false_eq_true, if_false, List.head?_nil,
          List.head?_cons, Option.some.injEq, reduceCtorEq, false_iff, not_and]
        rintro rfl; simp [hx]
  · simp [h]

/-- The end of a cut, as StartMarkNext says it (R165, R167). -/
theorem State.cutReached_iff (s : State) (e : ChannelEntry) (start : Word32) (h : s.composer.output = .cutting start) :
    s.cutReached e = true ↔ StartMarkNext s e := by
  unfold State.cutReached StartMarkNext State.arbiter
  simp only [h, ← Lane.offered_head]
  cases hp : (s.lane e.picture).offered.head? with
  | none =>
    simp only [reduceCtorEq, false_and, exists_false, iff_false]
    cases hs : e.sound with
    | none => simp
    | some i =>
      simp only [Option.bind_some]
      cases hi : (s.lane i).offered.head? with
      | none => simp
      | some c =>
        have : i ≠ e.picture := by rintro rfl; rw [hp] at hi; cases hi
        simp [this]
  | some p =>
    cases hs : e.sound with
    | none => simp
    | some i =>
      simp only [Option.bind_some]
      cases hi : (s.lane i).offered.head? with
      | none =>
        simp only [Option.map_none, beq_self_eq_true, Bool.true_and, Option.some.injEq, exists_eq_left', iff_self_and]
        rintro - j d rfl hd
        rw [hi] at hd; cases hd
      | some c =>
        by_cases hip : i = e.picture
        · subst hip
          rw [hp] at hi; cases hi
          simp only [Option.map_some, lt_irrefl, if_false, beq_self_eq_true, Bool.true_and, Option.some.injEq,
            exists_eq_left', iff_self_and]
          rintro - j d rfl hd
          rw [hp] at hd; cases hd; exact le_refl _
        · simp only [Option.map_some]
          by_cases ho : c.order < p.order
          · simp [ho, hip, hi]
          · simp only [ho, if_false, beq_self_eq_true, Bool.true_and, Option.some.injEq, exists_eq_left', iff_self_and]
            rintro - j d rfl hd
            rw [hi] at hd; cases hd; exact Nat.not_lt.1 ho

/-- While the output state is no cut, following it leaves the composer as it is. -/
theorem State.followOutput_uncut (s : State) (h : ∀ start, s.composer.output ≠ .cutting start) :
    s.followOutput.composer = s.composer := by
  have hr : ∀ e, s.cutReached e = false := by
    intro e
    unfold State.cutReached
    split <;> simp_all
  unfold State.followOutput
  split
  · rfl
  · simp only [hr, Bool.false_eq_true, if_false]
    split <;> simp

/-- The lanes that following the output leaves: under a slate, each tuned lane without the cells it offers (R168). -/
theorem State.followOutput_lanes (s : State) (j : Nat) :
    (s.tunedLane j = true → OnSlate s.followOutput →
        s.followOutput.lane j = { s.lane j with area := (s.lane j).undiscarded })
      ∧ (s.tunedLane j = false ∨ ¬ OnSlate s.followOutput → s.followOutput.lane j = s.lane j) := by
  unfold State.followOutput State.tunedLane
  cases he : s.tunedEntry with
  | none => exact ⟨fun h => by simp at h, fun _ => rfl⟩
  | some e =>
    dsimp only
    obtain ⟨s1, hs1⟩ : ∃ s1, s1 = if s.cutReached e = true then s.beginSlate else s := ⟨_, rfl⟩
    have hl : s1.lane j = s.lane j := State.lane_of_lanes (by rw [hs1]; split <;> simp) j
    rw [← hs1]
    split
    · rename_i k l q ho
      have hd := State.lane_drainLanes e s1 j
      rw [hl] at hd
      rw [hd]
      refine ⟨fun hn _ => by rw [if_pos hn], fun h => ?_⟩
      rcases h with h | h
      · rw [if_neg (by simp [h])]
      · exact absurd ⟨k, l, q, by simp [ho]⟩ h
    · rename_i ho
      exact ⟨fun _ ⟨k, l, q, h⟩ => absurd h (ho k l q), fun _ => hl⟩

theorem State.redecide_tunedEntry (s : State) : s.redecide.tunedEntry = s.tunedEntry := by
  cases h : s.tunedEntry with
  | none => simp [State.redecide, h]
  | some e =>
    rw [← h]
    apply State.tunedEntry_congr <;> rw [State.redecide_composer s e h] <;> simp

theorem State.tunedLane_congr {s t : State} (h : t.tunedEntry = s.tunedEntry) (j : Nat) :
    t.tunedLane j = s.tunedLane j := by
  unfold State.tunedLane
  rw [h]

theorem State.finish_of_untuned (s : State) (h : s.tunedEntry = none) : s.finish = s := by
  have h1 : s.redecide = s := by unfold State.redecide; rw [h]
  unfold State.finish
  rw [h1]
  unfold State.followOutput
  rw [h]

theorem Composer.decided_same (c : Composer) (now : Word32) (v : View) :
    { c.decided now v with decision := c.decision, output := c.output } = c := by
  unfold Composer.decided
  split <;> rfl

/-- A decision that stays as it was changes nothing (R163). -/
theorem Composer.decided_held (c : Composer) (now : Word32) (v : View) (h : c.decision = some v) :
    c.decided now v = c := by
  unfold Composer.decided
  rw [if_pos h]

/-- The output state after a re-decision and what follows it (R166, R167, R169). -/
theorem State.finish_output (s : State) (e : ChannelEntry) (he : s.tunedEntry = some e) :
    OutputFollows s s.finish e (s.viewDecision e).1 := by
  generalize hv : (s.viewDecision e).1 = v
  have hc : s.redecide.composer = s.composer.decided s.second v := hv ▸ State.redecide_composer s e he
  have hl : ∀ j, s.redecide.lane j = s.lane j := State.lane_of_lanes (by simp)
  have hst : StartMarkNext s.redecide e ↔ StartMarkNext s e := by
    unfold StartMarkNext
    simp only [hl]
  have ho := State.followOutput_output s.redecide e (by rw [s.redecide_tunedEntry, he])
  have uncut : ∀ o, (s.composer.decided s.second v).output = o → (∀ start, o ≠ .cutting start) →
      s.finish.composer.output = o := by
    intro o h1 h2
    have : s.finish.composer = s.redecide.composer := State.followOutput_uncut _ (by rw [hc, h1]; exact h2)
    rw [this, hc, h1]
  have iscut : ∀ start k, (s.composer.decided s.second v).output = .cutting start → v = .slate k →
      (StartMarkNext s e → s.finish.composer.output = .slate k none 0)
        ∧ (¬ StartMarkNext s e → s.finish.composer.output = .cutting start) := by
    intro start k h1 h2
    have hd : s.redecide.composer.decision = some (.slate k) := by rw [hc, h2]; simp
    have hr := State.cutReached_iff s.redecide e start (by rw [hc, h1])
    rw [hst] at hr
    constructor
    · intro h
      refine ho.trans ?_
      rw [if_pos (hr.2 h)]
      unfold State.beginSlate
      rw [hd]
    · intro h
      refine ho.trans ?_
      rw [if_neg (fun x => h (hr.1 x)), hc, h1]
  constructor
  · intro h1 h2
    have h3 : (s.composer.decided s.second v).output = s.composer.output := by rw [Composer.decided_held _ _ _ h1]
    rcases h2 with h2 | h2
    · refine ho.trans ?_
      have hd : s.redecide.composer.decision = some .show := by rw [hc, h2]; simp
      rw [hc, h3]
      split
      · unfold State.beginSlate
        rw [hd]
        simp only [hc, h3]
      · rfl
    · exact uncut _ h3 h2
  · rintro rfl h2
    refine uncut _ ?_ ?_
    · unfold Composer.decided
      rw [if_neg h2]
      cases s.composer.output <;> rfl
    · cases s.composer.output <;> simp
  · rintro k rfl h2 h3 h4
    refine uncut _ ?_ (by simp)
    unfold Composer.decided
    rw [if_neg h2]
    cases h5 : s.composer.output <;> simp_all
  · rintro k rfl h2 h3 h4
    refine iscut _ _ ?_ rfl
    unfold Composer.decided
    rw [if_neg h2]
    simp [h3, h4]
  · rintro k start rfl h3
    refine iscut _ _ ?_ rfl
    unfold Composer.decided
    split
    · exact h3
    · simp [h3]

/-- Everything that ends a command can do (R163, R166 to R169). -/
theorem State.finish_redecided (s : State) : Redecided s s.finish := by
  have hl : ∀ j, s.redecide.lane j = s.lane j := State.lane_of_lanes (by simp)
  have htl : ∀ j, s.redecide.tunedLane j = s.tunedLane j := State.tunedLane_congr s.redecide_tunedEntry
  have hc : ∀ o, { s.finish.composer with output := o } = { s.redecide.composer with output := o } :=
    State.followOutput_composer s.redecide
  have hlanes : ∀ j, (s.tunedLane j = true → OnSlate s.finish →
        s.finish.lane j = { s.lane j with area := (s.lane j).undiscarded })
      ∧ (s.tunedLane j = false ∨ ¬ OnSlate s.finish → s.finish.lane j = s.lane j) := by
    intro j
    have h := State.followOutput_lanes s.redecide j
    rwa [htl, hl] at h
  have hasked : ∀ e, s.tunedEntry = some e → s.finish.store = (s.askedPreview e).store
      ∧ s.finish.meters = (s.askedPreview e).meters ∧ s.finish.buying = (s.askedPreview e).buying := by
    intro e he
    simp [State.finish, State.redecide, he]
  exact
    { powered := by simp
      second := by simp
      intake := by simp
      keys := by simp
      packages := by simp
      notices := by simp
      keypad := by simp
      management := by simp
      reply := by simp
      due := by simp
      pending := by simp
      untuned := s.finish_of_untuned
      lock := by
        cases he : s.tunedEntry with
        | none => rw [s.finish_of_untuned he]
        | some e => simpa [State.finish] using (s.redecide_lock e he).1
      entry := fun e he => by simpa [State.finish] using (s.redecide_lock e he).2
      composer := by
        have h := congrArg (fun c : Composer => { c with decision := s.composer.decision })
          (hc s.composer.output)
        refine h.trans ?_
        cases he : s.tunedEntry with
        | none => simp [State.redecide, he]
        | some e =>
          rw [State.redecide_composer s e he]
          exact Composer.decided_same _ _ _
      decision := by
        intro e he
        have h := congrArg Composer.decision (hc s.composer.output)
        rw [State.redecide_composer s e he] at h
        simpa using h
      output := s.finish_output
      lanes := fun j => by
        by_cases ho : OnSlate s.finish
        · cases ht : s.tunedLane j with
          | true => rw [(hlanes j).1 ht ho]
          | false => rw [(hlanes j).2 (.inl ht)]
        · rw [(hlanes j).2 (.inr ho)]
      discarded := fun j ht ho => by rw [(hlanes j).1 ht ho]
      undisturbed := fun j h => (hlanes j).2 h
      begins := fun e he hb => by
        obtain ⟨p, hp, hcp, h⟩ := (s.askedPreview_eq e).1 hb
        obtain ⟨h1, h2, h3⟩ := hasked e he
        rw [h] at h1 h2 h3
        exact ⟨p, hp, hcp, h1, h2, h3⟩
      unasked := fun e he hb => by
        have h := hasked e he
        rwa [(s.askedPreview_eq e).2 hb] at h }

/-- A decision that stays as it was leaves the composer as it is, but for a cut. -/
theorem State.finish_settled (s : State) (e : ChannelEntry) (he : s.tunedEntry = some e)
    (hd : s.composer.decision = some (s.viewDecision e).1) (ho : ∀ start, s.composer.output ≠ .cutting start) :
    s.finish.composer = s.composer := by
  have hc : s.redecide.composer = s.composer :=
    (State.redecide_composer s e he).trans (Composer.decided_held _ _ _ hd)
  have h2 : ∀ start, s.redecide.composer.output ≠ .cutting start := by rw [hc]; exact ho
  unfold State.finish
  rw [State.followOutput_uncut _ h2, hc]

end Sys2Proof.Machine
end

