-- ==== Sys2Proof/Laws/Reach.lean ====
section
/-!
SUPPORT. How a command reaches the part: the outcome of exec for a part that is awake, what a management command does by
its checks, and that the view decision and what follows it do not look at the keypad.
-/

namespace Sys2Proof.Machine

/-! ## exec on a part that is awake -/

/-- A part that is awake has nothing to catch up with. -/
@[simp] theorem State.catchUp_awake (s : State) (h : Awake s) : s.catchUp = s := by
  unfold State.catchUp
  rw [h.2.1, ← h.2.2, List.foldl_nil, ← h.2.1]

/-- A command on a part that is awake has its own effect. -/
@[simp] theorem State.act_awake (f : State → State) (s : State) (h : Awake s) : s.act f = .next (f s) := by
  unfold State.act
  rw [if_pos h.1, s.catchUp_awake h]

/-- A key frame on a part that is awake acts by its key (R146, R147). -/
theorem State.takeFrame_awake (code : Nat) (held : Bool) (s : State) (h : Awake s) :
    s.takeFrame code held = .next (s.keyFrame code held) := by
  unfold State.takeFrame
  rw [h.2.2]
  exact State.act_awake _ s h

/-- A key frame that arrives together with a RESTART only touches (R186). -/
theorem State.takeFrame_restarted (code : Nat) (held : Bool) (s : State) (h : s.keypad.restarted = true) :
    s.takeFrame code held = s.act (State.frameTouches code) := by
  unfold State.takeFrame
  rw [h]
  rfl

/-- An event that is due, taken. -/
theorem State.takeEvent_due (e : TickEvent) (s : State) (h : s.powered = true) (he : e ∈ s.due) :
    s.takeEvent e = .next (State.perform { s with due := s.due.erase e } e) := by
  unfold State.takeEvent
  rw [h, if_pos]
  simpa using he

/-- An event that is not due does not arise. -/
theorem State.takeEvent_notDue (e : TickEvent) (s : State) (he : e ∉ s.due) : s.takeEvent e = .next s := by
  unfold State.takeEvent
  rw [if_neg]
  simp [he]

/-! ## The operation queue -/

/-- An operation that starts with what it was given, and does not complete at once, joins the end of the queue. -/
theorem State.push_plain (op : StoreOp) (s : State) (h1 : ∀ b v, op ≠ .writeSettings b v)
    (h2 : ∀ k, op ≠ .eraseSector k) (h3 : s.store.queue ≠ [] ∨ s.store.idleRange op = false) :
    s.push op = { s with store := { s.store with queue := s.store.queue ++ [{ op := op, retried := false }] } } := by
  have hs : ∀ u : State, op.started u = op := by
    intro u
    cases op <;> first | rfl | exact absurd rfl (h1 _ _)
  have ho : ∀ f : FolioStore, f.onStart op = f := by
    intro f
    cases op <;> first | rfl | exact absurd rfl (h2 _)
  unfold State.push
  split
  · rename_i hq
    rw [if_neg (by simpa [hq] using h3)]
    simp only [State.startHead, hq, List.nil_append, hs, ho]
  · rfl

/-- An APPEND, ADVANCE or WRITE EXTENSION joins the end of the queue. -/
@[simp] theorem State.push_append (r : NewRecord) (s : State) : s.push (.append r) =
    { s with store := { s.store with queue := s.store.queue ++ [{ op := .append r, retried := false }] } } :=
  State.push_plain _ s (by simp) (by simp) (.inr rfl)

@[simp] theorem State.push_advance (n : Nat) (t : AdvanceTarget) (s : State) : s.push (.advance n t) =
    { s with store := { s.store with queue := s.store.queue ++ [{ op := .advance n t, retried := false }] } } :=
  State.push_plain _ s (by simp) (by simp) (.inr rfl)

/-- An ADVANCE RANGE joins the end of the queue, unless it starts at once and finds nothing to program (R132). -/
@[simp] theorem State.push_range (t : RangeTarget) (ns : List Nat) (s : State) : s.push (.advanceRange t ns) =
    if s.store.queue = [] ∧ s.store.rangeRecords t ns = [] then s
    else
      { s with store := { s.store with queue := s.store.queue ++ [{ op := .advanceRange t ns, retried := false }] } } := by
  split
  · rename_i h
    simp [State.push, FolioStore.idleRange, h.1, h.2]
  · rename_i h
    refine State.push_plain _ s (by simp) (by simp) ?_
    by_cases hq : s.store.queue = []
    · exact .inr (by simpa [FolioStore.idleRange, hq] using h)
    · exact .inl hq

@[simp] theorem State.push_extension (n m : Nat) (s : State) : s.push (.writeExtension n m) =
    { s with store := { s.store with queue := s.store.queue ++ [{ op := .writeExtension n m, retried := false }] } } :=
  State.push_plain _ s (by simp) (by simp) (.inr rfl)

/-! ## Management commands -/

/-- A command that does not address the room is discarded (R176). -/
theorem State.command_discarded {t : Target} {k : CommandKind} (check : State → Option Reason)
    (effect : State → State) {s : State} (h : s.addressed t = false) : s.command t k check effect = s := by
  unfold State.command
  rw [h]
  simp

/-- A target the command does not accept is refused (R178). -/
theorem State.command_target {t : Target} {k : CommandKind} (check : State → Option Reason)
    (effect : State → State) {s : State} (h : s.addressed t = true) (h2 : targetAccepted k t = false) :
    s.command t k check effect = s.refuse k .range := by
  unfold State.command
  rw [h, h2]
  simp

/-- The owner's check refuses. -/
theorem State.command_refused {t : Target} {k : CommandKind} {check : State → Option Reason}
    (effect : State → State) {s : State} {r : Reason} (h : s.addressed t = true) (h2 : targetAccepted k t = true)
    (hc : check s = some r) : s.command t k check effect = s.refuse k r := by
  unfold State.command
  rw [h, h2, hc]
  simp

/-- The command is taken. -/
theorem State.command_taken {t : Target} {k : CommandKind} {check : State → Option Reason}
    (effect : State → State) {s : State} (h : s.addressed t = true) (h2 : targetAccepted k t = true)
    (hc : check s = none) : s.command t k check effect = effect s := by
  unfold State.command
  rw [h, h2, hc]
  simp

/-- A command refused by its owner's check, on a part that is awake. -/
theorem State.act_refused {t : Target} {k : CommandKind} {check : State → Option Reason}
    {effect : State → State} {s : State} {r : Reason} (ha : Awake s) (hd : s.addressed t = true)
    (ht : targetAccepted k t = true) (hc : check s = some r) :
    s.act (fun s => s.command t k check effect) = .next (s.refuse k r) := by
  rw [State.act_awake _ s ha, State.command_refused _ hd ht hc]

/-- A command taken, on a part that is awake. -/
theorem State.act_taken {t : Target} {k : CommandKind} {check : State → Option Reason}
    {effect : State → State} {s : State} (ha : Awake s) (hd : s.addressed t = true)
    (ht : targetAccepted k t = true) (hc : check s = none) :
    s.act (fun s => s.command t k check effect) = .next (effect s) := by
  rw [State.act_awake _ s ha, State.command_taken _ hd ht hc]

/-- What ends a command re-decides. -/
theorem State.redecided_of_finish {s u : State} (h : u = s.finish) : Redecided s u := h ▸ s.finish_redecided

/-- Every management command goes through the decoder's checks. -/
theorem exec_managed {c : Instr} {t : Target} {k : CommandKind} (h : c.managed = some (t, k)) :
    ∃ check effect, ∀ s, exec c s = s.act fun s => s.command t k check effect := by
  cases c <;> simp only [Instr.managed, Option.some.injEq, Prod.mk.injEq, reduceCtorEq] at h <;>
    obtain ⟨rfl, rfl⟩ := h <;> exact ⟨_, _, fun _ => rfl⟩

end Sys2Proof.Machine
end

