-- ==== Sys2Proof/Laws/Tune.lean ====
section
/-!
SUPPORT. What a tune does, said once (R161), and that neither a tune nor a re-decision looks at the keypad.
-/

namespace Sys2Proof.Machine

/-! ## The keypad stands apart -/

/-- s with another keypad. -/
abbrev State.withKeypad (k : Keypad) (s : State) : State := { s with keypad := k }

theorem State.beginPreview_withKeypad (n : Nat) (p : Programme) (k : Keypad) (s : State) :
    (s.withKeypad k).beginPreview n p = (s.beginPreview n p).withKeypad k := by
  have hm : (s.withKeypad k).freeMeter = s.freeMeter := rfl
  unfold State.beginPreview
  rw [hm]
  split
  · rfl
  · simp only [State.push_append]
    rfl

end Sys2Proof.Machine

namespace Sys2Proof

open Sys2Proof.Machine

/-- A re-decided state stays one when both sides take another keypad. -/
theorem Redecided.withKeypad {s t : State} (h : Redecided s t) (k : Keypad) :
    Redecided (s.withKeypad k) (t.withKeypad k) :=
  { powered := h.powered
    second := h.second
    intake := h.intake
    keys := h.keys
    packages := h.packages
    notices := h.notices
    keypad := rfl
    management := h.management
    reply := h.reply
    due := h.due
    pending := h.pending
    untuned := fun hs => by
      have := h.untuned hs
      rw [this]
    lock := h.lock
    entry := h.entry
    composer := h.composer
    decision := h.decision
    output := fun e he =>
      let o := h.output e he
      ⟨o.kept, o.shown, o.slated, o.cut, o.cutting⟩
    lanes := h.lanes
    discarded := h.discarded
    undisturbed := h.undisturbed
    begins := fun e he hb => by
      obtain ⟨p, h0, h1, h2⟩ := h.begins e he hb
      refine ⟨p, h0, h1, ?_⟩
      rw [State.beginPreview_withKeypad]
      exact h2
    unasked := h.unasked }

/-- A tune stays one when both sides take another keypad. -/
theorem TunedTo.withKeypad {s t : State} {n : Nat} {e : ChannelEntry} (h : TunedTo s t n e) (k : Keypad) :
    TunedTo (s.withKeypad k) (t.withKeypad k) n e :=
  { tuned := h.tuned
    decision := h.decision
    output := h.output
    composer := h.composer
    left := h.left
    named := h.named
    otherLanes := h.otherLanes
    refusal := h.refusal
    begins := fun hb => by
      obtain ⟨p, h0, h1, h2⟩ := h.begins hb
      refine ⟨p, h0, h1, ?_⟩
      rw [State.beginPreview_withKeypad]
      exact h2
    unasked := h.unasked
    entry := h.entry
    lock := h.lock
    powered := h.powered
    second := h.second
    intake := h.intake
    keys := h.keys
    packages := h.packages
    notices := h.notices
    keypad := rfl
    management := h.management
    reply := h.reply
    due := h.due
    pending := h.pending }

end Sys2Proof

namespace Sys2Proof.Machine

/-! ## The tune -/

/-- The view decision does not look at the lanes but for the picture lane, nor at the composer but for its table. -/
theorem State.viewDecision_congr {s t : State} {e : ChannelEntry} (h1 : t.lane e.picture = s.lane e.picture)
    (h2 : { t with lanes := s.lanes, composer := s.composer } = s)
    (h3 : t.composer.channels = s.composer.channels) : t.viewDecision e = s.viewDecision e := by
  have hc : ∀ n, t.current n = s.current n := by
    intro n
    have hn : t.notices = s.notices := congrArg (·.notices) h2
    simp only [State.current, State.entryIndex, State.noticeAt, h3, hn]
  have hl : t.lock = s.lock := congrArg (·.lock) h2
  have hm : t.meters = s.meters := congrArg (·.meters) h2
  have hb : t.buying = s.buying := congrArg (·.buying) h2
  have hs : t.store = s.store := congrArg (·.store) h2
  have hn : t.notices = s.notices := congrArg (·.notices) h2
  have hp : t.packages = s.packages := congrArg (·.packages) h2
  simp only [State.viewDecision, h1, State.subscribed, hp, State.classOf, hc, hl, State.verdict, State.lockoutRunning,
    State.unlockOpen, State.meter, hm, State.saleAnswer, State.priceOf, State.priceEntry, hb, State.answer,
    State.rentalOf, State.previewOf, State.canPreview, State.commitOf, State.folioHolds, hs, State.freeMeter, hn]
  rfl

theorem State.entry_channels {s t : State} (h : t.composer.channels = s.composer.channels) (n : Nat) :
    t.entry n = s.entry n := by
  unfold State.entry State.entryIndex State.entryAt
  rw [h]

theorem State.entry_number {s : State} {n : Nat} {e : ChannelEntry} (h : s.entry n = some e) : e.number = n := by
  unfold State.entry State.entryIndex State.entryAt at h
  cases hi : s.composer.channels.findIdx? fun x => (x.map (·.number)) == some n with
  | none => rw [hi] at h; cases h
  | some i =>
    rw [hi] at h
    obtain ⟨hlt, hp, -⟩ := List.findIdx?_eq_some_iff_getElem.1 hi
    simp only [Option.bind_some, List.getD_eq_getElem?_getD, List.getElem?_eq_getElem hlt, Option.getD_some] at h
    rw [h] at hp
    simpa using hp

/-- What a tune does (R161). -/
theorem State.tune_tunedTo (s : State) (n : Nat) (e : ChannelEntry) (he : s.entry n = some e) :
    TunedTo s (s.tune n) n e := by
  obtain ⟨s1, hs1⟩ : ∃ s1, s1 = (match s.tunedEntry with
      | some old => s.untuneLanes old (some e)
      | none => s) := ⟨_, rfl⟩
  have honly : { s1 with lanes := s.lanes } = s := by
    rw [hs1]; split <;> [exact State.untuneLanes_only _ _ _; rfl]
  have hlane : ∀ j, s1.lane j = if s.tunedLane j = true ∧ e.names j = false then (s.lane j).untuned else s.lane j := by
    intro j
    rw [hs1]
    unfold State.tunedLane
    cases ht : s.tunedEntry with
    | none => simp
    | some old => simp only [State.lane_untuneLanes]; simp
  have hcomp : s1.composer = s.composer := congrArg (·.composer) honly
  obtain ⟨s2, hs2⟩ : ∃ s2 : State, s2 = { s1.clearRefusal with composer := { s1.composer with tuned := some n } } :=
    ⟨_, rfl⟩
  have hpic : s2.lane e.picture = s.lane e.picture := by
    have : s2.lane e.picture = s1.lane e.picture := by rw [hs2]; rfl
    rw [this, hlane, if_neg]
    simp [ChannelEntry.names]
  have hcl : { s1.clearRefusal with lanes := s.lanes } = s.clearRefusal := congrArg State.clearRefusal honly
  have hvd : s2.viewDecision e = s.clearRefusal.viewDecision e := by
    refine State.viewDecision_congr hpic ?_ ?_
    · rw [hs2]
      exact congrArg (fun u : State => { u with composer := s.composer }) hcl
    · rw [hs2]
      show s1.composer.channels = s.composer.channels
      rw [hcomp]
  obtain ⟨t0, ht0⟩ : ∃ t0 : State, t0 = { s2.askedPreview e with
      composer := (s2.askedPreview e).composer.tunedTo (s2.viewDecision e).1 } := ⟨_, rfl⟩
  have ht : s.tune n = t0.endStaleUnlock.followOutput := by
    unfold State.tune
    rw [he, ht0, hs2, hs1] <;> rfl
  have hc2 : s2.composer = { s.composer with tuned := some n } := by rw [hs2, ← hcomp]
  have hc0 : t0.composer = ({ s.composer with tuned := some n } : Composer).tunedTo (s2.viewDecision e).1 := by
    rw [ht0]; simp only [State.askedPreview_keeps, hc2]
  have hcu : (s.tune n).composer = t0.composer := by
    rw [ht, State.followOutput_uncut]
    · simp
    · intro st
      simp only [State.endStaleUnlock_keeps, hc0, Composer.tunedTo]
      cases (s2.viewDecision e).1 <;> simp
  have hlanes0 : ∀ j, t0.endStaleUnlock.lane j = s1.lane j := by
    intro j
    refine State.lane_of_lanes ?_ j
    rw [ht0, hs2]
    simp
  have htu0 : t0.endStaleUnlock.tunedEntry = some e := by
    unfold State.tunedEntry
    simp only [State.endStaleUnlock_keeps, hc0, Composer.tunedTo, Option.bind_some]
    rw [← he]
    refine State.entry_channels ?_ n
    simp [hc0, Composer.tunedTo]
  have hstore : s2.store = s.store := by rw [hs2]; exact congrArg (·.store) honly
  have hmeters : s2.meters = s.meters := by rw [hs2]; exact congrArg (·.meters) honly
  have hbuying : s2.buying = { s.buying with refusal := none } := by
    rw [hs2]; exact congrArg (·.buying) hcl
  have hnot : s2.notices = s.notices := by rw [hs2]; exact congrArg (·.notices) honly
  have hlock : t0.lock = s.lock := by
    rw [ht0, hs2]; simp only [State.askedPreview_keeps]; exact congrArg (·.lock) honly
  have hcur : s2.current e.number = s.current e.number := by
    simp only [State.current, State.entryIndex, State.noticeAt, hc2, hnot]
  have ht0s : t0.store = (s2.askedPreview e).store ∧ t0.meters = (s2.askedPreview e).meters
      ∧ t0.buying = (s2.askedPreview e).buying := by rw [ht0]; exact ⟨rfl, rfl, rfl⟩
  have hbegins : (s2.viewDecision e).2 = true → ∃ p, s.current e.number = some p ∧ s.canPreview p = true
      ∧ t0.store = (s.beginPreview e.number p).store ∧ t0.meters = (s.beginPreview e.number p).meters
      ∧ t0.buying = { (s.beginPreview e.number p).buying with refusal := none } := by
    intro hb
    obtain ⟨p, h1, h2, h3⟩ := (s2.askedPreview_eq e).1 hb
    have hcan : s2.canPreview p = s.canPreview p := by
      simp only [State.canPreview, State.priceEntry, State.previewOf, State.commitOf, State.rentalOf,
        State.folioHolds, State.freeMeter, State.meter, hstore, hmeters, hbuying, hnot]
      rfl
    have hb2 : s2.beginPreview e.number p =
        { s2 with
          store := (s.beginPreview e.number p).store
          meters := (s.beginPreview e.number p).meters
          buying := { (s.beginPreview e.number p).buying with refusal := none } } := by
      have hfm : s2.freeMeter = s.freeMeter := by
        simp only [State.freeMeter, State.meter, hmeters]
      unfold State.beginPreview
      rw [hfm]
      split
      · rw [← hbuying, ← hstore, ← hmeters]
      · simp only [State.push_append, State.takeRecordNumber, State.setMeter, State.priceEntry, hstore, hmeters,
          hbuying]
    rw [h3, hb2] at ht0s
    exact ⟨p, hcur ▸ h1, hcan ▸ h2, ht0s⟩
  have hunasked : (s2.viewDecision e).2 = false →
      t0.store = s.store ∧ t0.meters = s.meters ∧ t0.buying = { s.buying with refusal := none } := by
    intro hb
    rw [(s2.askedPreview_eq e).2 hb, hstore, hmeters, hbuying] at ht0s
    exact ht0s
  have hpost : ∀ x, x = t0.endStaleUnlock.followOutput → x.store = t0.store ∧ x.meters = t0.meters
      ∧ x.buying = t0.buying := by
    rintro x rfl
    simp
  have hslate : OnSlate t0.endStaleUnlock.followOutput ↔ ∃ k, (s.clearRefusal.viewDecision e).1 = .slate k := by
    unfold OnSlate
    rw [← ht, hcu, hc0, hvd]
    unfold Composer.tunedTo
    cases (s.clearRefusal.viewDecision e).1 <;> simp
  have htl0 : ∀ j, t0.endStaleUnlock.tunedLane j = e.names j := by
    intro j
    unfold State.tunedLane
    rw [htu0]
  have hlk := State.endStaleUnlock_lock t0 (s2.viewDecision e).1 (by rw [hc0]; rfl)
  rw [hlock] at hlk
  refine
    { tuned := by rw [hcu, hc0]; rfl
      decision := by rw [hcu, hc0, hvd]; rfl
      output := by rw [hcu, hc0, hvd]; rfl
      composer := by rw [hcu, hc0]; rfl
      left := fun j h1 h2 => ?_
      named := fun j h => ?_
      otherLanes := fun j h1 h2 => ?_
      refusal := by
        rw [(hpost _ ht).2.2]
        cases hb : (s2.viewDecision e).2 with
        | true => obtain ⟨p, -, -, -, -, h⟩ := hbegins hb; rw [h]
        | false => rw [(hunasked hb).2.2]
      begins := fun hb => by
        obtain ⟨h1, h2, h3⟩ := hpost _ ht
        rw [h1, h2, h3]
        exact hbegins (hvd ▸ hb)
      unasked := fun hb => by
        obtain ⟨h1, h2, h3⟩ := hpost _ ht
        rw [h1, h2, h3]
        exact hunasked (hvd ▸ hb)
      entry := by
        rw [ht, ← hvd]
        simpa only [State.followOutput_keeps, hc0, Composer.tunedTo] using hlk.2
      lock := by
        rw [ht]
        simpa only [State.followOutput_keeps] using hlk.1
      powered := by simp
      second := by simp
      intake := by simp
      keys := by simp
      packages := by simp
      notices := by simp
      keypad := by simp
      management := by simp
      reply := by simp
      due := by simp
      pending := by simp }
  · rw [ht, (State.followOutput_lanes _ _).2 (.inl (by rw [htl0]; exact h2)), hlanes0, hlane, if_pos ⟨h1, h2⟩]
    rfl
  · have hj : t0.endStaleUnlock.lane j = s.lane j := by rw [hlanes0, hlane, if_neg (by simp [h])]
    have hf := State.followOutput_lanes t0.endStaleUnlock j
    rw [hslate, hj] at hf
    rw [ht]
    rcases hv : (s.clearRefusal.viewDecision e).1 with _ | k
    · rw [hf.2 (.inr (by simp [hv]))]; exact ⟨rfl, rfl⟩
    · rw [hf.1 (by rw [htl0]; exact h) ⟨k, hv⟩]; exact ⟨rfl, rfl⟩
  · rw [ht, (State.followOutput_lanes _ _).2 (.inl (by rw [htl0]; exact h2)), hlanes0, hlane, if_neg (by simp [h1])]

/-- The digits of a channel entry are a decimal number, the first the most significant (R151). -/
theorem decimalValue_eq (ds : List Nat) : decimalValue ds = Nat.ofDigits 10 ds.reverse := by
  unfold decimalValue
  rw [← List.foldr_reverse, Nat.ofDigits_eq_foldr]
  simp only [Nat.cast_id]
  congr 1
  funext d n
  omega

/-- The channel numbers CH+ and CH− step through are those of the table's entries (R153). -/
theorem State.mem_numbers (s : State) (n : Nat) :
    n ∈ s.numbers ↔ ∃ e, some e ∈ s.composer.channels ∧ e.number = n := by
  simp [State.numbers, List.mem_filterMap]

theorem State.numbers_nil (s : State) :
    s.numbers = [] ↔ ∀ n, ¬ ∃ e, some e ∈ s.composer.channels ∧ e.number = n := by
  simp only [List.eq_nil_iff_forall_not_mem, State.mem_numbers]

/-- What naming a channel does (R151, R153). -/
theorem State.selectChannel_selects (s : State) (n : Nat) : Selects s (s.selectChannel n) n := by
  unfold Selects State.selectChannel
  split
  · rfl
  · split
    · rename_i h
      unfold State.tune
      rw [h]
    · rename_i e h
      exact s.tune_tunedTo n e h

end Sys2Proof.Machine

namespace Sys2Proof

open Sys2Proof.Machine

/-- Naming a channel does not look at the keypad. -/
theorem Selects.withKeypad {s t : State} {n : Nat} (h : Selects s t n) (k : Keypad) :
    Selects (s.withKeypad k) (t.withKeypad k) n := by
  unfold Selects at *
  have he : (s.withKeypad k).entry n = s.entry n := rfl
  rw [he]
  split
  · rename_i hc
    rw [if_pos hc] at h
    rw [h]
  · rename_i hc
    rw [if_neg hc] at h
    cases hx : s.entry n with
    | none => rw [hx] at h; simp only at h ⊢; rw [h]
    | some e => rw [hx] at h; exact TunedTo.withKeypad h k

end Sys2Proof
end

