-- ==== Sys2Proof/Laws/Sale.lean ====
section
/-!
SUPPORT. The free meter (R79) and what a change of programme does to the purchase unit (R108, R111), said once.
-/

namespace Sys2Proof.Machine

/-! ## The free meter -/

/-- No meter of 1..7 is free. -/
theorem State.freeMeter_none (s : State) : s.freeMeter = none ↔ ¬ ∃ i, 1 ≤ i ∧ i ≤ 7 ∧ (s.meter i).use
    = .free ∧ (s.meter i).hold = none := by
  simp only [State.freeMeter, List.find?_eq_none, Meter.allocatable, List.mem_cons, List.not_mem_nil, or_false,
    Bool.and_eq_true, beq_iff_eq]
  constructor
  · rintro h ⟨i, h1, h2, h3⟩
    exact h i (by omega) h3
  · rintro h i hi h3
    exact h ⟨i, by omega, by omega, h3⟩

/-- The free meter is the lowest of 1..7 that is free with no commit hold (R79). -/
theorem State.freeMeter_some (s : State) (i) (h : s.freeMeter = some i) : 1 ≤ i ∧ i ≤ 7 ∧ (s.meter i).use
    = .free ∧ (s.meter i).hold = none ∧
    (∀ j, 1 ≤ j → j < i → ¬ ((s.meter j).use = .free ∧ (s.meter j).hold = none)) := by
  have hal : ∀ j, (s.meter j).allocatable = true ↔ (s.meter j).use = .free ∧ (s.meter j).hold = none := by
    simp [Meter.allocatable]
  simp only [← hal]
  simp only [State.freeMeter, List.find?_cons] at h
  repeat' split at h
  all_goals first | (simp at h; done) | skip
  all_goals
    simp only [Option.some.injEq] at h
    subst h
    refine ⟨by omega, by omega, ((hal _).1 (by assumption)).1, ((hal _).1 (by assumption)).2, ?_⟩
    intro j hj hlt
    interval_cases j <;> simp_all

/-! ## The change of programme -/

/-- The previews left after a list of previews has ended. -/
theorem State.endPreviews_previews (ps : List Preview) (s : State) :
    (ps.foldl (fun s p => s.endPreview p) s).buying.previews
        = s.buying.previews.filter fun q => !(ps.any fun p => p.programme == q.programme) := by
  have h1 : ∀ p s, (State.endPreview p s).buying.previews
      = s.buying.previews.filter fun q => q.programme != p.programme := by
    intro p s
    simp only [State.endPreview, State.markPreviewed]
    split <;> [split; skip] <;> simp [State.dropPreview]
  induction ps generalizing s with
  | nil => simp
  | cons p ps ih =>
    simp only [List.foldl]
    rw [ih, h1, List.filter_filter]
    refine List.filter_congr fun q _ => ?_
    simp only [List.any_cons, Bool.not_or]
    rw [Bool.and_comm]; congr 1
    rw [bne, Bool.beq_comm]

/-- An ended preview asks for its record's ADVANCE to PREVIEWED (R109). -/
theorem State.markPreviewed_asked (n : Nat) (s : State) : MarkAsked s (s.markPreviewed n) n := by
  have ha : s.store.accepts = true ↔ s.store.fault = false ∧ s.store.closing = false ∧ s.store.awaitingScan = false := by
    simp [FolioStore.accepts, FolioStore.closingTest]
  refine ⟨fun h => ?_, fun h1 h2 h3 h4 => ?_, fun h1 h2 h3 h4 => ?_⟩ <;> unfold State.markPreviewed
  · rw [if_neg fun x => by obtain ⟨a, b, c⟩ := ha.1 x; simp [a, b, c] at h]
    exact ⟨rfl, rfl⟩
  · rw [if_pos (ha.2 ⟨h1, h2, h3⟩), if_pos (by simpa [FolioStore.queueFull] using h4)]
    exact ⟨rfl, rfl⟩
  · rw [if_pos (ha.2 ⟨h1, h2, h3⟩), if_neg (by simpa [FolioStore.queueFull] using h4), State.push_advance]
    exact ⟨rfl, rfl⟩

/-- Ending previews touches no other part of the purchase unit. -/
theorem State.endPreviews_same (ps : List Preview) (s : State) :
    { (ps.foldl (fun s p => s.endPreview p) s).buying with
        previews := s.buying.previews, marking := s.buying.marking } = s.buying := by
  have h1 : ∀ p s, { (State.endPreview p s).buying with
      previews := s.buying.previews, marking := s.buying.marking } = s.buying := by
    intro p s
    simp only [State.endPreview, State.markPreviewed]
    split <;> [split; skip] <;> simp [State.dropPreview]
  induction ps generalizing s with
  | nil => rfl
  | cons p ps ih =>
    simp only [List.foldl]
    have h2 := congrArg (fun b : Purchases => { b with previews := s.buying.previews, marking := s.buying.marking })
      (ih (s.endPreview p))
    exact h2.trans (h1 p s)

/-- What a change of programme does is read from the purchase unit, the meters and the store alone. -/
theorem ProgrammeChanged.of_same {s s' u : State} {n : Nat} (hb : s'.buying = s.buying) (hm : s'.meters = s.meters)
    (hs : s'.store = s.store) (h : ProgrammeChanged s' u n) : ProgrammeChanged s u n := by
  have hmark : ∀ r, MarkAsked s' u r → MarkAsked s u r := fun r hr =>
    ⟨by have := hr.refused; rwa [hs, hb] at this, by have := hr.listed; rwa [hs, hb] at this,
      by have := hr.queued; rwa [hs, hb] at this⟩
  refine ⟨by have := h.buying; rwa [hb] at this, by have := h.previews; rwa [hb] at this,
    by have := h.refusal; rwa [hb] at this, by have := h.unbound; rwa [hb, hm, hs] at this, ?_⟩
  intro as p bs h1 h2 h3 h4
  have := h.bound as p bs (by rw [hb]; exact h1) h2 h3 h4
  unfold State.meter at *
  rw [hm] at this
  exact ⟨this.1, hmark _ this.2⟩

/-- All that a change of programme on a channel does to the purchase unit (R53, R108, R111). -/
theorem State.programmeChanged_changed (n : Nat) (s : State) : ProgrammeChanged s (s.programmeChanged n) n := by
  unfold State.programmeChanged
  dsimp only
  generalize hp : (s.buying.previews.filter fun p => p.channel == n && p.state == .running) = ps
  have hA := State.endPreviews_previews ps s
  have hB := State.endPreviews_same ps s
  obtain ⟨s1, hs⟩ : ∃ s1, ps.foldl (fun s p => s.endPreview p) s = s1 := ⟨_, rfl⟩
  rw [hs] at hA hB ⊢
  have hR : s1.buying.refusal = s.buying.refusal := (congrArg Purchases.refusal hB : _)
  obtain ⟨u, hu⟩ : ∃ u, (match s1.buying.refusal with
    | some r => if r.channel = n then s1.clearRefusal else s1
    | none => s1) = u := ⟨_, rfl⟩
  have hU : u = { s1 with buying :=
      { s1.buying with refusal := s.buying.refusal.filter fun r => r.channel != n } } := by
    rw [← hu, hR]
    cases hr : s.buying.refusal with
    | none => simp only [Option.filter_none]; rw [← hr, ← hR]
    | some r =>
      by_cases hc : r.channel = n
      · simp [hc, State.clearRefusal, Option.filter]
      · simp only [if_neg hc, Option.filter, bne_iff_ne.2 hc, if_true]
        rw [← hr, ← hR]
  suffices h : ProgrammeChanged s u n by subst hu; exact h
  rw [hU]
  have hmem : ∀ p, p ∈ ps ↔ p ∈ s.buying.previews ∧ p.channel = n ∧ p.state = .running := by
    intro p
    rw [← hp, List.mem_filter]
    simp
  refine ⟨?_, ?_, rfl, fun h => ?_, fun as p bs h hc hr ho => ?_⟩
  · have := congrArg (fun b : Purchases => { b with refusal := s.buying.refusal }) hB
    exact this
  · dsimp only
    rw [hA]
    refine List.filter_congr fun q _ => ?_
    rw [← hp, List.any_filter]
  · have : ps = [] := List.eq_nil_iff_forall_not_mem.2 fun p hp' => by
      obtain ⟨a, b, c⟩ := (hmem p).1 hp'
      rw [h p a b] at c; cases c
    subst this
    rw [← hs]
    exact ⟨rfl, rfl, rfl⟩
  · have hno : ∀ xs : List Preview, (∀ q ∈ xs, q.channel = n → q.state = .buying) →
        xs.filter (fun p => p.channel == n && p.state == .running) = [] := by
      intro xs hxs
      rw [List.filter_eq_nil_iff]
      intro q hq hb
      simp only [Bool.and_eq_true, beq_iff_eq] at hb
      rw [hxs q hq hb.1] at hb; exact absurd hb.2 (by simp)
    have : ps = [p] := by
      rw [← hp, h, List.filter_append, List.filter_cons, if_pos (by simp [hc, hr]),
        hno as fun q hq => ho q (List.mem_append_left _ hq), hno bs fun q hq => ho q (List.mem_append_right _ hq)]
      rfl
    rw [this] at hs
    simp only [List.foldl_cons, List.foldl_nil] at hs
    rw [← hs]
    have hm := State.markPreviewed_asked p.record ((s.releaseMeter p.meter p.programme).dropPreview p.programme)
    refine ⟨?_, ⟨fun h => ?_, fun h1 h2 h3 h4 => ?_, fun h1 h2 h3 h4 => ?_⟩⟩
    · simp only [State.endPreview, State.markPreviewed_keeps, State.dropPreview_keeps]
      unfold State.releaseMeter
      dsimp only
      split <;> rfl
    · simpa [State.endPreview, State.dropPreview] using hm.refused (by simpa using h)
    · simpa [State.endPreview, State.dropPreview] using
        hm.listed (by simpa using h1) (by simpa using h2) (by simpa using h3) (by simpa using h4)
    · simpa [State.endPreview, State.dropPreview] using
        hm.queued (by simpa using h1) (by simpa using h2) (by simpa using h3) (by simpa using h4)

end Sys2Proof.Machine
end

