-- ==== Sys2Proof/Laws/Blocks.lean ====
section
/-!
SUPPORT. What the operations of each block do, said once: lanes and their checks, the keystream, channels and notices,
the store's queue and checks, what a local second counts, and the layout of what goes out.
-/

namespace Sys2Proof.Machine

/-! ## Lanes -/

/-- A lane that has been loaded stands in the table. -/
theorem State.lane_mem {s : State} {j d} (h : (s.lane j).config = some d) : s.lane j ∈ s.lanes := by
  unfold State.lane at *
  rw [List.getD_eq_getElem?_getD] at *
  cases hg : s.lanes[j]? with
  | none => rw [hg] at h; simp [Lane.initial] at h
  | some l => simp; exact List.mem_of_getElem? hg

/-- Two areas overlap exactly when they share a pool block. -/
theorem LaneConfig.overlaps_iff (a b : LaneConfig) (ha : 1 ≤ a.blockCount) (hb : 1 ≤ b.blockCount) :
    a.overlaps b = true ↔ ∃ x, a.firstBlock ≤ x ∧ x < a.firstBlock + a.blockCount ∧ b.firstBlock ≤ x
        ∧ x < b.firstBlock + b.blockCount := by
  simp only [LaneConfig.overlaps, Bool.and_eq_true, decide_eq_true_eq]
  constructor
  · intro h; exact ⟨max a.firstBlock b.firstBlock, by omega⟩
  · rintro ⟨x, h⟩; omega

/-- Checks 5 and 6 of R7, as AreaClash says them. -/
theorem State.laneConflict_iff (s : State) (i c) (hb : AreasBounded s) (hc : 1 ≤ c.blockCount) :
    s.laneConflict i c = true ↔ AreaClash s i c := by
  unfold State.laneConflict AreaClash
  simp only [List.any_eq_true, Bool.and_eq_true, bne_iff_ne, Prod.exists]
  constructor
  · rintro ⟨l, j, hm, ⟨hji, hcf⟩, h⟩
    have hl : s.lane j = l := by
      rw [List.mem_zipIdx_iff_getElem?] at hm
      simp only [] at hm
      simp [State.lane, List.getD_eq_getElem?_getD, hm]
    split at h
    · rename_i d hd
      refine ⟨j, d, hji, ?_, by rw [hl]; exact hd, ?_⟩
      · rw [hl]; simpa [Lane.configured] using hcf
      · have hb' := hb l (hl ▸ State.lane_mem (s := s) (j := j) (by rw [hl]; exact hd))
        simp only [Lane.bounded, hd] at hb'
        rw [Bool.or_eq_true, LaneConfig.overlaps_iff _ _ hc hb'.1] at h
        simp only [beq_iff_eq] at h
        rcases h with h | h
        · exact Or.inr h
        · exact Or.inl h.symm
    · cases h
  · rintro ⟨j, d, hji, hr, hd, h⟩
    refine ⟨s.lane j, j, ?_, ⟨hji, by simpa [Lane.configured] using hr⟩, ?_⟩
    · rw [List.mem_zipIdx_iff_getElem?]
      unfold State.lane at *
      rw [List.getD_eq_getElem?_getD] at *
      cases hg : s.lanes[j]? with
      | none => rw [hg] at hd; simp [Lane.initial] at hd
      | some l => rfl
    · rw [hd]
      have hb' := hb _ (State.lane_mem hd)
      simp only [Lane.bounded, hd] at hb'
      simp only []
      rw [Bool.or_eq_true, LaneConfig.overlaps_iff _ _ hc hb'.1, beq_iff_eq]
      rcases h with h | h
      · exact Or.inr h.symm
      · exact Or.inl h

/-- Check 7 of R7. -/
theorem State.kindConflict_iff (s : State) (i k) : s.kindConflict i k = true ↔ ∃ e, some e ∈ s.composer.channels
        ∧ (k = LaneKind.sound ∧ e.picture = i ∨ k = .picture ∧ e.sound = some i) := by
  unfold State.kindConflict
  simp only [List.any_eq_true]
  constructor
  · rintro ⟨e, he, h⟩
    cases e with
    | none => cases h
    | some c => refine ⟨c, he, ?_⟩; cases k <;> simp_all
  · rintro ⟨e, he, h⟩
    refine ⟨some e, he, ?_⟩
    rcases h with ⟨rfl, h⟩ | ⟨rfl, h⟩ <;> simp [h]

/-- Check 3 of R159. -/
theorem State.laneIs_iff (s : State) (i k) : s.laneIs i k = true ↔ (s.lane i).response ≠ .idle
    ∧ (s.lane i).config.map (·.kind) = some k := by
  unfold State.laneIs Lane.configured
  cases (s.lane i).config <;> simp

/-- The lane a stream number matches is configured with that stream (R4). -/
theorem State.laneOfStream_facts {s : State} {n i} (h : s.laneOfStream n = some i) : i < s.lanes.length
    ∧ (s.lane i).response ≠ .idle ∧ (s.lane i).config.map (·.stream) = some n := by
  unfold State.laneOfStream at h
  obtain ⟨hlt, hp, -⟩ := List.findIdx?_eq_some_iff_getElem.1 h
  refine ⟨hlt, ?_⟩
  have : s.lane i = s.lanes[i] := by simp [State.lane, List.getD_eq_getElem?_getD, hlt]
  rw [this]; simpa [Lane.configured] using hp

/-- What the handling of an accepted cell does to the counters and the sequence, whatever else it does (R15 to R17). -/
theorem Lane.accept_counts (l : Lane) (ks tu now o c) : let r := (l.accept ks tu now o c).1
   r.accepted = countUp l.accepted ∧ r.discontinuities = (match l.expected with
      | some q => if q = c.seq then l.discontinuities else countUp l.discontinuities
      | none => l.discontinuities) ∧ r.expected = some ((c.seq + 1) % 16) ∧ r.config = l.config := by
  have hp : ∀ (l : Lane) c, (l.place c).accepted = l.accepted ∧ (l.place c).discontinuities = l.discontinuities
      ∧ (l.place c).expected = l.expected ∧ (l.place c).config = l.config := by
    intro l c; unfold Lane.place; split <;> [simp; (split <;> simp_all)]
  have hp2 : ∀ b (l : Lane) c, (l.placeIf b c).accepted = l.accepted ∧ (l.placeIf b c).discontinuities =
      l.discontinuities ∧ (l.placeIf b c).expected = l.expected ∧ (l.placeIf b c).config = l.config := by
    intro b l c; unfold Lane.placeIf; split; exact hp l c; exact ⟨rfl, rfl, rfl, rfl⟩
  intro r
  have hd : ∀ l : Lane, let r := (l.descramble ks tu now o c).1; r.accepted = l.accepted ∧ r.discontinuities =
      l.discontinuities ∧ r.expected = l.expected ∧ r.config = l.config := by
    intro l; dsimp only; unfold Lane.descramble
    split
    · split
      · exact hp _ _
      · split <;> exact ⟨rfl, rfl, rfl, rfl⟩
    · exact hp2 _ _ _
    · split
      · exact hp _ _
      · exact ⟨rfl, rfl, rfl, rfl⟩
    · exact hp2 _ _ _
    · exact ⟨rfl, rfl, rfl, rfl⟩
  simp only [r, Lane.accept]
  split
  · exact ⟨rfl, rfl, rfl, rfl⟩
  · split
    · exact ⟨rfl, rfl, rfl, rfl⟩
    · obtain ⟨a, b, c', d⟩ := hd (l.counted c)
      rw [a, b, c', d]; exact ⟨rfl, rfl, rfl, rfl⟩

/-! ## Keystream and payloads -/

/-- Recovery keeps a payload's length. -/
theorem recoverBytes_length (n x bs) : (recoverBytes n x bs).length = bs.length := by
  induction n generalizing x bs with
  | zero => rfl
  | succ n ih => cases bs <;> simp [recoverBytes, ih]

/-- Each byte that recovery leaves (R30). -/
theorem recoverBytes_getD (n x bs) (hn : n ≤ bs.length) (k) : (recoverBytes n x bs).getD k 0 =
    if k < n then bs.getD k 0 - BitVec.ofNat 8 ((fun x => (40693 * x + 2713) % 65536)^[k+1] x / 256) else bs.getD k 0 := by
  induction n generalizing x bs k with
  | zero => simp [recoverBytes]
  | succ n ih =>
    cases bs with
    | nil => simp at hn
    | cons b bs =>
      simp only [recoverBytes]
      cases k with
      | zero => simp [keystreamNext]
      | succ k =>
        simp only [List.getD_cons_succ]
        rw [ih _ _ (by simpa using hn)]
        simp [keystreamNext]

/-- Writing inside a payload keeps its length. -/
theorem overlay_length (b : List Byte) (o : Nat) (tx : List Byte) (h : o + tx.length ≤ b.length) :
    (overlay b o tx).length = b.length := by
  simp [overlay]; omega

/-- Each byte of a payload that is written over. -/
theorem overlay_getD (b : List Byte) (o : Nat) (tx : List Byte) (h : o + tx.length ≤ b.length) (i : Nat) :
    (overlay b o tx).getD i 0 = if o ≤ i ∧ i < o + tx.length then tx.getD (i - o) 0 else b.getD i 0 := by
  unfold overlay
  simp only [List.getD_eq_getElem?_getD, List.getElem?_append, List.length_append, List.length_take]
  rw [Nat.min_eq_left (by omega)]
  split
  · split
    · rw [if_neg (by omega)]; rw [List.getElem?_take_of_lt (by omega)]
    · rw [if_pos (by omega)]
  · rw [if_neg (by omega), List.getElem?_drop]; congr 2; omega

/-- A right-aligned text of at most 8 characters has 8 (R172). -/
theorem rightAligned_length (tx : List Byte) (h : tx.length ≤ 8) : (rightAligned tx).length = 8 := by
  simp [rightAligned]; omega

/-! ## Channels and notices -/

/-- Check 2 of R159. -/
theorem State.numberTaken_iff (s : State) (i n) :
    (s.composer.channels.zipIdx.any fun p => p.2 != i && (p.1.any fun c => c.number == n)) = true ↔
   ∃ j c, j ≠ i ∧ s.entryAt j = some c ∧ c.number = n := by
  simp only [List.any_eq_true, Bool.and_eq_true, bne_iff_ne, Prod.exists]
  constructor
  · rintro ⟨e, j, hm, hj, hc⟩
    rw [List.mem_zipIdx_iff_getElem?] at hm
    cases e with
    | none => cases hc
    | some c => exact ⟨j, c, hj, by simp only [] at hm; simp [State.entryAt, List.getD_eq_getElem?_getD, hm],
        by simpa using hc⟩
  · rintro ⟨j, c, hj, hc, hn⟩
    refine ⟨some c, j, ?_, hj, by simp [hn]⟩
    rw [List.mem_zipIdx_iff_getElem?]
    unfold State.entryAt at hc
    rw [List.getD_eq_getElem?_getD] at hc
    simp only []
    cases hg : s.composer.channels[j]? with
    | none => rw [hg] at hc; cases hc
    | some x => rw [hg] at hc; simp at hc; rw [hc]

/-- The entry that has a channel number. -/
theorem State.entry_of_index {s : State} {n i : Nat} (h : s.entryIndex n = some i) : ∃ e, s.entryAt i = some e
    ∧ e.number = n := by
  unfold State.entryIndex at h
  obtain ⟨hlt, hp, -⟩ := List.findIdx?_eq_some_iff_getElem.1 h
  cases he : s.composer.channels[i] with
  | none => rw [he] at hp; simp at hp
  | some e =>
    rw [he] at hp
    exact ⟨e, by simp [State.entryAt, List.getD_eq_getElem?_getD, hlt, he], by simpa using hp⟩

/-- All that replacing a channel's records does (R53). -/
theorem State.setRecords_facts (s : State) (i n : Nat) (new : NoticeEntry) : ∃ u : State,
    State.setRecords i n new s = u.finish
      ∧ u.notices = { s.notices with entries := s.notices.entries.set i new }
      ∧ { u with notices := s.notices, buying := s.buying, meters := s.meters, store := s.store } = s
      ∧ ((s.noticeAt i).current.map (·.id) = new.current.map (·.id) →
          u.buying = s.buying ∧ u.meters = s.meters ∧ u.store = s.store)
      ∧ ((s.noticeAt i).current.map (·.id) ≠ new.current.map (·.id) → ProgrammeChanged s u n) := by
  unfold State.setRecords
  dsimp only
  refine ⟨_, rfl, ?_⟩
  split
  · rename_i h
    exact ⟨rfl, rfl, fun _ => ⟨rfl, rfl, rfl⟩, fun x => absurd h x⟩
  · rename_i h
    exact ⟨by simp [State.setNotice], by simp, fun x => absurd x h,
      fun _ => ProgrammeChanged.of_same (s' := s.setNotice i new) rfl rfl rfl (State.programmeChanged_changed n _)⟩

/-- All that an entry's loss of its records does (R48, R53). -/
theorem State.dropRecords_facts (s : State) (i : Nat) (old : ChannelEntry) :
    (s.dropRecords i old).notices = (s.setNotice i { current := none, next := none }).notices
      ∧ { s.dropRecords i old with notices := s.notices, buying := s.buying, meters := s.meters, store := s.store } = s
      ∧ ((s.noticeAt i).current = none → (s.dropRecords i old).buying = s.buying
          ∧ (s.dropRecords i old).meters = s.meters ∧ (s.dropRecords i old).store = s.store)
      ∧ ((s.noticeAt i).current ≠ none → ProgrammeChanged s (s.dropRecords i old) old.number) := by
  unfold State.dropRecords
  dsimp only
  split
  · rename_i h
    exact ⟨rfl, rfl, fun _ => ⟨rfl, rfl, rfl⟩, fun x => absurd h x⟩
  · rename_i h
    exact ⟨by simp, by simp, fun x => absurd x h,
      fun _ => ProgrammeChanged.of_same (s' := s.setNotice i { current := none, next := none }) rfl rfl rfl
        (State.programmeChanged_changed old.number _)⟩

/-- All that ceasing to be tuned does (R160). -/
theorem State.untune_facts (s : State) (old : ChannelEntry) :
    (s.untune old).composer = { s.composer with tuned := none, decision := none, output := .none }
      ∧ (s.untune old).buying = { s.buying with refusal := none }
      ∧ (∀ j, old.names j = true → (s.untune old).lane j = (s.lane j).untuned)
      ∧ (∀ j, old.names j = false → (s.untune old).lane j = s.lane j)
      ∧ { (s.untune old).lock with entry := s.lock.entry } = s.lock
      ∧ (∀ m ds k, (s.untune old).lock.entry ≠ .unlock m ds k)
      ∧ ((∀ m ds k, s.lock.entry ≠ .unlock m ds k) → (s.untune old).lock.entry = s.lock.entry)
      ∧ { s.untune old with composer := s.composer, buying := s.buying, lanes := s.lanes, lock := s.lock } = s := by
  have hl : ∀ j, (s.untune old).lane j = (s.untuneLanes old none).lane j :=
    fun j => State.lane_of_lanes (by simp [State.untune]) j
  have hlock : (s.untune old).lock = (match s.lock.entry with
      | .unlock _ _ _ => { s.lock with entry := .idle }
      | _ => s.lock) := by
    simp only [State.untune, State.endStaleUnlock, State.clearRefusal, State.untuneLanes_keeps]
    cases s.lock.entry <;> simp
  refine ⟨by simp [State.untune], by simp [State.untune, State.clearRefusal], fun j h => ?_, fun j h => ?_, ?_, ?_, ?_,
    by simp [State.untune, State.clearRefusal]⟩
  · rw [hl, State.lane_untuneLanes, if_pos ⟨h, rfl⟩]
  · rw [hl, State.lane_untuneLanes, if_neg (by simp [h])]
  all_goals rw [hlock]
  · split <;> rfl
  · intro m ds k
    cases h : s.lock.entry <;> simp [h]
  · intro hn
    split
    · rename_i h
      exact absurd h (hn _ _ _)
    · rfl

/-- A waiting output state does not show (R160). -/
theorem Composer.awaitStart_eq (c : Composer) :
    c.awaitStart = { c with output := if c.output = .showing then .waitingStart else c.output } := by
  unfold Composer.awaitStart
  split
  · rename_i h
    rw [if_pos h]
  · rename_i h
    rw [if_neg h]

/-- Nothing follows from an output state that neither cuts nor sends a slate. -/
theorem State.followOutput_idle (s : State) (h : s.composer.output = .showing ∨ s.composer.output = .waitingStart) :
    s.followOutput = s := by
  unfold State.followOutput
  split
  · rfl
  · rename_i e _
    have hc : s.cutReached e = false := by unfold State.cutReached; rcases h with h | h <;> rw [h]
    rw [hc]
    rcases h with h | h <;> simp [h]

/-- Following the output state does not bring SHOWING. -/
theorem State.followOutput_not_showing (s : State) (h : s.composer.output ≠ .showing) :
    s.followOutput.composer.output ≠ .showing := by
  unfold State.followOutput
  split
  · exact h
  · rename_i e _
    have hb : s.beginSlate.composer.output ≠ .showing := by
      unfold State.beginSlate
      split <;> simp [h]
    cases hc : s.cutReached e <;> simp only [Bool.false_eq_true, if_false, if_true]
    all_goals split <;> simp [h, hb]

/-- A tuned entry rewritten with another picture lane: a re-decision between two waits for a start mark (R160). -/
theorem State.retuned_waits (s : State) (old e : ChannelEntry) (h : old.picture ≠ e.picture) :
    let u := s.untuneLanes old (some e)
    let w := State.finish { u with composer := u.composer.awaitStart }
    s.retuned old e = { w with composer := w.composer.awaitStart } := by
  intro u w
  unfold State.retuned
  simp only [if_neg h]
  show State.followOutput _ = _
  obtain ⟨x, hx⟩ : ∃ x, x = State.redecide { u with composer := u.composer.awaitStart } := ⟨_, rfl⟩
  have hw : w = x.followOutput := by rw [hx]; rfl
  rw [← hx, hw, x.composer.awaitStart_eq, x.followOutput.composer.awaitStart_eq]
  by_cases ho : x.composer.output = .showing
  · rw [x.followOutput_idle (.inl ho), State.followOutput_idle _ (.inr (by simp [ho]))]
  · rw [if_neg ho, if_neg (x.followOutput_not_showing ho)]

/-! ## The store -/

/-- The test for CLOSING (R128, R144). -/
theorem FolioStore.closingTest_iff (f : FolioStore) : f.closingTest = true ↔ f.closing = true ∨ f.awaitingScan =
    true := by
  simp [FolioStore.closingTest]

/-- No room for a WRITE SETTINGS (R59 check 3). -/
theorem FolioStore.settingsFull_iff (f : FolioStore) : (f.queueFull && !f.unstartedSettings) = true
    ↔ 8 ≤ f.queue.length ∧ ∀ q ∈ f.queue.tail, q.op.isWriteSettings = false := by
  simp [FolioStore.queueFull, FolioStore.unstartedSettings]

/-- A standing change while CLOSING. -/
theorem FolioStore.standingCheck_busy {f : FolioStore} (h : f.closing = true ∨ f.awaitingScan = true) :
    f.standingCheck = some .busy := by
  unfold FolioStore.standingCheck; rw [if_pos ((FolioStore.closingTest_iff f).2 h)]

/-- A standing change with a full queue. -/
theorem FolioStore.standingCheck_full {f : FolioStore} (h : ¬ (f.closing = true ∨ f.awaitingScan = true)) (h2 :
    8 ≤ f.queue.length ∧ ∀ q ∈ f.queue.tail, q.op.isWriteSettings = false) : f.standingCheck = some .full := by
  unfold FolioStore.standingCheck; rw [if_neg (fun x => h ((FolioStore.closingTest_iff f).1 x)),
      if_pos ((FolioStore.settingsFull_iff f).2 h2)]

/-- A standing change that passes. -/
theorem FolioStore.standingCheck_none {f : FolioStore} (h : ¬ (f.closing = true ∨ f.awaitingScan = true)) (h2 :
    ¬ (8 ≤ f.queue.length ∧ ∀ q ∈ f.queue.tail, q.op.isWriteSettings = false)) : f.standingCheck = none := by
  unfold FolioStore.standingCheck; rw [if_neg (fun x => h ((FolioStore.closingTest_iff f).1 x)),
      if_neg (fun x => h2 ((FolioStore.settingsFull_iff f).1 x))]

/-- Queueing operations touches the queue, and the sectors by the start of an erase, alone. -/
theorem State.pushAll_same (ops : List StoreOp) (s : State) : { s.pushAll ops with store := s.store } = s
    ∧ ({ (s.pushAll ops).store with queue := s.store.queue, sectors := s.store.sectors } = s.store) := by
  unfold State.pushAll
  induction ops generalizing s with
  | nil => exact ⟨rfl, rfl⟩
  | cons o os ih =>
    rw [List.foldl_cons]
    have hp : { s.push o with store := s.store } = s
        ∧ { (s.push o).store with queue := s.store.queue, sectors := s.store.sectors } = s.store := by
      unfold State.push; dsimp only; split
      · split
        · exact ⟨rfl, rfl⟩
        · unfold State.startHead; split
          · exact ⟨rfl, rfl⟩
          · refine ⟨rfl, ?_⟩
            unfold FolioStore.onStart; split <;> rfl
      · exact ⟨rfl, rfl⟩
    obtain ⟨h1, h2⟩ := ih (s.push o)
    refine ⟨?_, ?_⟩
    · have : { List.foldl (fun s op => s.push op) (s.push o) os with store := s.store } =
        { { List.foldl (fun s op => s.push op) (s.push o) os with store := (s.push o).store } with store := s.store } := rfl
      rw [this, h1, hp.1]
    · rw [← hp.2, ← h2]

/-! ## The local second -/

/-- Mapping a function that keeps the default. -/
theorem getD_map_fixed {α} (f : α → α) (xs : List α) (d : α) (h : f d = d) (i : Nat) : (xs.map f).getD i d =
    f (xs.getD i d) := by
  simp only [List.getD_eq_getElem?_getD, List.getElem?_map]
  cases xs[i]? <;> simp [h]

/-- Each lane after a local second. -/
theorem State.lane_counted (s : State) (i) : (s.counted).lane i = (s.lane i).ticked :=
  getD_map_fixed Lane.ticked s.lanes Lane.initial rfl i

/-- Each meter after a local second. -/
theorem State.meter_counted (s : State) (i) : (s.counted).meter i = s.meterTicked (s.meter i) :=
  getD_map_fixed s.meterTicked s.meters Meter.free rfl i

/-- When a meter counts (R87, R88). -/
theorem State.meterCounts_iff (s : State) (m : Meter) : s.meterCounts m = true ↔ m.use ≠ .free ∧ m.hold = none ∧
            (m.gating = some .wall ∨ m.gating = some .viewing ∧ ∃ e p, s.tunedEntry = some e
              ∧ s.tunedCurrent = some p ∧ s.composer.decision = some .show ∧ m.programme = some p.id
              ∧ (s.lane e.picture).watch ≠ .lost) := by
  unfold State.meterCounts
  have hv : s.viewingGate m = true ↔ ∃ e p, s.tunedEntry = some e
              ∧ s.tunedCurrent = some p ∧ s.composer.decision = some .show ∧ m.programme = some p.id
              ∧ (s.lane e.picture).watch ≠ .lost := by
    unfold State.viewingGate
    constructor
    · intro h
      split at h
      · rename_i e p he hp
        refine ⟨e, p, he, hp, ?_⟩
        simpa [and_assoc] using h
      · cases h
    · rintro ⟨e, p, he, hp, h1, h2, h3⟩
      rw [he, hp]; simp [h1, h2, h3]
  rw [← hv]
  cases hg : m.gating with
  | none => simp
  | some g => cases g <;> simp [and_assoc]

/-! ## Frames -/

/-- A number in n bytes has n bytes. -/
theorem bytesOf_length (n v : Nat) : (bytesOf n v).length = n := by
  induction n generalizing v with
  | zero => rfl
  | succ n ih => simp [bytesOf, ih]

/-- A number read from bytes, one byte longer. -/
theorem natOf_append (xs : List Byte) (b : Byte) : natOf (xs ++ [b]) = 256 * natOf xs + b.toNat := by
  simp [natOf]

/-- A field, one byte longer (R196). -/
theorem num_succ (bs : List Byte) (a w : Nat) (h : a + w < bs.length) :
    num bs a (w + 1) = 256 * num bs a w + (bs.getD (a + w) 0).toNat := by
  have : field bs a (w + 1) = field bs a w ++ [bs.getD (a + w) 0] := by
    unfold field
    rw [List.take_add_one]
    simp [List.getElem?_drop, h, List.getD_eq_getElem?_getD]
  unfold num; rw [this, natOf_append]

/-- A field's bytes read as a number give it back, as far as its width carries it. -/
theorem natOf_bytesOf (n v : Nat) : natOf (bytesOf n v) = v % 256 ^ n := by
  induction n generalizing v with
  | zero => simp [natOf, bytesOf, Nat.mod_one]
  | succ n ih =>
    rw [bytesOf, natOf_append, ih, BitVec.toNat_ofNat]
    have := Nat.mod_mul (x := v) (a := 256) (b := 256 ^ n)
    rw [show 256 ^ (n + 1) = 256 * 256 ^ n by rw [pow_succ, Nat.mul_comm], this]
    omega

/-- Numbers written one after another have the layout of their widths (R196). -/
theorem layout_of_bytes (rows : List (Nat × Nat)) : Layout (rows.flatMap fun r => bytesOf r.1 r.2) rows := by
  have hlen : ∀ rows : List (Nat × Nat), (rows.flatMap fun r => bytesOf r.1 r.2).length = (rows.map (·.1)).sum := by
    intro rows
    induction rows with
    | nil => rfl
    | cons r rows ih => simp [bytesOf_length, ih]
  have hmid : ∀ xs ys zs : List Byte, num (xs ++ (ys ++ zs)) xs.length ys.length = natOf ys := by
    intro xs ys zs; simp [num, field]
  refine ⟨hlen rows, ?_⟩
  rintro before w v after rfl
  have h := hmid (before.flatMap fun r => bytesOf r.1 r.2) (bytesOf w v) (after.flatMap fun r => bytesOf r.1 r.2)
  rw [bytesOf_length] at h
  rw [List.flatMap_append, List.flatMap_cons, ← hlen before, h, natOf_bytesOf]

end Sys2Proof.Machine
end

