-- ==== Sys2Proof/Laws/Store.lean ====
section
/-!
SUPPORT. Which records count, and what the folio store's operations do, said once: what programming leaves alone, a slot
after a field has been programmed, what an attempt cut off or failing leaves, what an operation does as it joins the
queue, the close's operations, the room a completion leaves, how the next operation starts, and the outcome of a
completion.
-/

namespace Sys2Proof.Machine

/-! ## The records that count -/

/-- Once a close is resumed no record counts (R127, R142). -/
theorem FolioStore.records_resumed {f : FolioStore} (h : f.resumed = true) : f.records = [] := by
  simp [FolioStore.records, h]

/-- At any other time the records of the current folio count (R127). -/
theorem FolioStore.records_standing {f : FolioStore} (h : f.resumed = false) :
    f.records = f.slots.filter fun p => p.1.isRecordOf f.folio := by simp [FolioStore.records, h]

/-! ## Programming -/

/-- A step that programs the sectors or the page and nothing else of the store. -/
abbrev ProgramsOnly (g : FolioStore → FolioStore) : Prop := ∀ f, { g f with sectors := f.sectors, page := f.page } = f

theorem FolioStore.onSlot_programsOnly (n : Nat) (g : Slot → Slot) : ProgramsOnly (FolioStore.onSlot n g) := by
  intro f; unfold FolioStore.onSlot; split <;> rfl

/-- Steps one after another program what each programs. -/
theorem programsOnly_foldl (gs : List (FolioStore → FolioStore)) (h : ∀ g ∈ gs, ProgramsOnly g) :
    ProgramsOnly fun f => gs.foldl (fun f g => g f) f := by
  induction gs with
  | nil => exact fun _ => rfl
  | cons g gs ih =>
    intro f
    have h1 := ih (fun g hg => h g (by simp [hg])) (g f)
    exact (congrArg (fun x : FolioStore => { x with sectors := f.sectors, page := f.page }) h1).trans (h g (by simp) f)

/-- Every step of every operation programs the sectors or the page and nothing else. -/
theorem opSteps_programsOnly (f : FolioStore) (op : StoreOp) : ∀ g ∈ opSteps f op, ProgramsOnly g := by
  have hslot := FolioStore.onSlot_programsOnly
  have hcommit : ∀ n c, ∀ g ∈ commitSteps n c, ProgramsOnly g := by
    intro n c g hg; simp only [commitSteps, List.mem_cons, List.not_mem_nil, or_false] at hg
    rcases hg with rfl | rfl | rfl | rfl <;> exact hslot _ _
  intro g hg
  cases op with
  | append r =>
    simp only [opSteps, appendSteps, List.mem_append, List.mem_cons, List.not_mem_nil, or_false] at hg
    rcases hg with ((rfl | rfl | rfl | rfl | rfl | rfl) | hg) | rfl <;> first | exact hslot _ _ | skip
    split at hg
    · exact hcommit _ _ g hg
    · simp at hg
  | advance n t =>
    simp only [opSteps, advanceSteps] at hg
    split at hg
    · simp at hg
    · split at hg <;> simp only [List.mem_append, List.mem_cons, List.not_mem_nil, or_false] at hg
      · rcases hg with rfl | rfl <;> exact hslot _ _
      · rcases hg with hg | rfl <;> [exact hcommit _ _ g hg; exact hslot _ _]
  | advanceRange t ns =>
    simp only [opSteps, rangeSteps, List.mem_map] at hg
    obtain ⟨n, -, rfl⟩ := hg
    exact hslot _ _
  | writeExtension n m =>
    simp only [opSteps, extensionSteps] at hg
    split at hg <;> simp only [List.mem_cons, List.not_mem_nil, or_false] at hg
    subst hg; exact hslot _ _
  | writeSettings b v =>
    rcases v with _ | ⟨n, v⟩ <;> simp only [opSteps, settingsSteps, List.mem_cons, List.not_mem_nil, or_false] at hg
    rcases hg with rfl | rfl | rfl | rfl | rfl | rfl | rfl | rfl | rfl | rfl | rfl | rfl | rfl | rfl <;>
      exact fun _ => rfl
  | eraseSector k =>
    simp only [opSteps, List.mem_cons, List.not_mem_nil, or_false] at hg
    subst hg; exact fun _ => rfl
  | closeMark =>
    simp only [opSteps, List.mem_cons, List.not_mem_nil, or_false] at hg
    subst hg; exact fun _ => rfl

/-- All of an operation programs the sectors and the page alone. -/
theorem FolioStore.programAll_same (f : FolioStore) (op : StoreOp) :
    { f.programAll op with sectors := f.sectors, page := f.page } = f :=
  programsOnly_foldl _ (opSteps_programsOnly f op) f

/-- An attempt programs the sectors and the page alone. -/
theorem FolioStore.programSteps_same (f : FolioStore) (op : StoreOp) (k : Nat) :
    { f.programSteps op k with sectors := f.sectors, page := f.page } = f := by
  refine programsOnly_foldl _ (fun g hg => opSteps_programsOnly f op g ?_) f
  unfold FolioStore.attempted at hg
  split at hg
  · simp at hg
  · exact List.mem_of_mem_take hg

/-- A store of four sectors of 64 slots each. -/
abbrev FolioStore.Whole (f : FolioStore) : Prop := f.sectors.length = 4 ∧ ∀ sec ∈ f.sectors, sec.slots.length = 64

/-- Every slot after one has been changed. -/
theorem FolioStore.slot_onSlot {f : FolioStore} (hf : f.Whole) {n : Nat} (h1 : 1 ≤ n) (h2 : n ≤ 256) (g : Slot → Slot)
    (m : Nat) : (f.onSlot n g).slot m = if m = n then g (f.slot n) else f.slot m := by
  have hn : n ≠ 0 := by omega
  have hk : (n - 1) / 64 < f.sectors.length := by rw [hf.1]; omega
  have hlen : (f.sector ((n - 1) / 64)).slots.length = 64 := by
    unfold FolioStore.sector; rw [List.getD_eq_getElem?_getD, List.getElem?_eq_getElem hk]
    exact hf.2 _ (List.getElem_mem _)
  have hsector : ∀ k, (f.onSlot n g).sector k = if k = (n - 1) / 64
      then { f.sector ((n - 1) / 64) with slots := (f.sector ((n - 1) / 64)).slots.modify ((n - 1) % 64) g }
      else f.sector k := by
    intro k
    unfold FolioStore.onSlot FolioStore.sector
    rw [if_neg hn]
    dsimp only
    rw [List.getD_eq_getElem?_getD, List.getElem?_set]
    by_cases h : k = (n - 1) / 64
    · subst h; simp [hk]
    · rw [if_neg (Ne.symm h), if_neg h]; simp
  by_cases hm : m = 0
  · rw [if_neg (by omega)]; subst hm; rfl
  · unfold FolioStore.slot
    rw [if_neg hm, if_neg hn, if_neg hm, hsector]
    by_cases hmn : m = n
    · subst hmn
      rw [if_pos rfl, if_pos rfl]; simp only [List.getD_eq_getElem?_getD, List.getElem?_modify]
      rw [List.getElem?_eq_getElem (show (m - 1) % 64 < (f.sector ((m - 1) / 64)).slots.length by omega)]
      simp
    · rw [if_neg hmn]
      by_cases hd : (m - 1) / 64 = (n - 1) / 64
      · rw [if_pos hd, hd]; simp only [List.getD_eq_getElem?_getD, List.getElem?_modify]
        have : (n - 1) % 64 ≠ (m - 1) % 64 := by omega
        simp [this]
      · rw [if_neg hd]

/-- A change of a slot keeps the store whole. -/
theorem FolioStore.whole_onSlot {f : FolioStore} (hf : f.Whole) (n : Nat) (g : Slot → Slot) : (f.onSlot n g).Whole := by
  unfold FolioStore.onSlot
  split
  · exact hf
  · dsimp only
    refine ⟨by simpa using hf.1, fun sec hsec => ?_⟩
    by_cases hk : (n - 1) / 64 < f.sectors.length
    · rcases List.mem_or_eq_of_mem_set hsec with h | h
      · exact hf.2 _ h
      · rw [h]; simp only [List.length_modify]
        unfold FolioStore.sector; rw [List.getD_eq_getElem?_getD, List.getElem?_eq_getElem hk]
        exact hf.2 _ (List.getElem_mem _)
    · rw [List.set_eq_of_length_le (by omega)] at hsec; exact hf.2 _ hsec

/-- A slot that holds a record is one of 1..256. -/
theorem FolioStore.slot_range {f : FolioStore} (hf : f.Whole) {n : Nat} (h : (f.slot n).opened = true) :
    1 ≤ n ∧ n ≤ 256 := by
  by_contra hc
  have : f.slot n = Slot.erased := by
    unfold FolioStore.slot
    split
    · rfl
    · have : f.sectors.length ≤ (n - 1) / 64 := by rw [hf.1]; omega
      unfold FolioStore.sector
      have h0 : Sector.erased.slots = List.replicate 64 Slot.erased := rfl
      rw [List.getD_eq_getElem?_getD, List.getD_eq_getElem?_getD, List.getElem?_eq_none this]
      simp only [Option.getD_none, h0, List.getElem?_replicate]
      split <;> rfl
  rw [this] at h; cases h

/-! ## What an attempt leaves -/

theorem FolioStore.onSlot_page (n : Nat) (g : Slot → Slot) (f : FolioStore) : (f.onSlot n g).page = f.page := by
  unfold FolioStore.onSlot; split <;> rfl

/-- Steps that each change the slot of one record change it as one after another would. -/
theorem FolioStore.slot_steps {n : Nat} (h1 : 1 ≤ n) (h2 : n ≤ 256) (gs : List (Slot → Slot)) :
    ∀ f : FolioStore, f.Whole →
      let g := (gs.map (FolioStore.onSlot n)).foldl (fun f g => g f) f
      g.page = f.page ∧ g.slot n = gs.foldl (fun sl g => g sl) (f.slot n) ∧ ∀ m, m ≠ n → g.slot m = f.slot m := by
  induction gs with
  | nil => exact fun f _ => ⟨rfl, rfl, fun _ _ => rfl⟩
  | cons g gs ih =>
    intro f hf
    obtain ⟨a, b, c⟩ := ih (f.onSlot n g) (FolioStore.whole_onSlot hf n g)
    refine ⟨a.trans (FolioStore.onSlot_page n g f), b.trans ?_, fun m hm => (c m hm).trans ?_⟩
    · rw [FolioStore.slot_onSlot hf h1 h2, if_pos rfl]; rfl
    · rw [FolioStore.slot_onSlot hf h1 h2, if_neg hm]

theorem program_fits {old : Option Nat} {v : Nat} (h : old = none ∨ old = some v) : program old v = some v := by
  rcases h with rfl | rfl <;> rfl

theorem programMoney_fits {old : Option Nat} {v : Nat} (h : old = none ∨ old = some v) :
    programMoney old v = some v := by
  rcases h with rfl | rfl
  · rfl
  · by_cases hv : v = 0 <;> simp [programMoney, hv]

theorem programMoney_zero (old : Option Nat) : programMoney old 0 = some 0 := by cases old <;> rfl

/-- Marks programmed in one record after another. -/
theorem FolioStore.slot_marks (mark : Slot → Slot) (hm : ∀ sl, mark (mark sl) = mark sl) (ns : List Nat) :
    ∀ f : FolioStore, f.Whole → (∀ n ∈ ns, 1 ≤ n ∧ n ≤ 256) →
      let g := (ns.map fun n => FolioStore.onSlot n mark).foldl (fun f g => g f) f
      g.page = f.page ∧ ∀ m, g.slot m = if m ∈ ns then mark (f.slot m) else f.slot m := by
  induction ns with
  | nil => exact fun f _ _ => ⟨rfl, fun _ => by simp⟩
  | cons n ns ih =>
    intro f hf hr
    obtain ⟨h1, h2⟩ := hr n (by simp)
    obtain ⟨a, b⟩ := ih (f.onSlot n mark) (FolioStore.whole_onSlot hf n mark) fun x hx => hr x (by simp [hx])
    refine ⟨a.trans (FolioStore.onSlot_page n mark f), fun m => (b m).trans ?_⟩
    rw [FolioStore.slot_onSlot hf h1 h2]
    by_cases hmn : m = n <;> by_cases hmem : m ∈ ns <;> simp [hmn, hmem]
    · subst hmn; simp [hmem, hm]
    · subst hmn; simp [hmem]

/-- What an attempt at an APPEND leaves. -/
theorem FolioStore.append_leaves {f : FolioStore} (hf : f.Whole) (r : NewRecord) (k : Nat) :
    AppendLeaves f (f.programSteps (.append r) k) r k := by
  intro sl hsl h1 h2 c1 c2 c3 c4 c5 c6 opening
  have key : ∀ gs : List (Slot → Slot), appendSteps r = gs.map (FolioStore.onSlot r.number) →
      SlotAlone f (f.programSteps (.append r) k) r.number ((gs.take k).foldl (fun sl g => g sl) sl) := by
    intro gs hgs
    obtain ⟨a, b, d⟩ := FolioStore.slot_steps h1 h2 (gs.take k) f hf
    rw [List.map_take, ← hgs] at a b d
    exact ⟨a, b.trans (by rw [hsl]), d⟩
  have e1 := program_fits c1; have e2 := program_fits c2; have e3 := program_fits c3
  have e4 := program_fits c4; have e5 := program_fits c5; have e6 := program_fits c6
  let head : List (Slot → Slot) :=
    [fun sl => { sl with folio := program sl.folio r.folio }, fun sl => { sl with number := program sl.number r.number },
     fun sl => { sl with programme := program sl.programme r.programme },
     fun sl => { sl with channel := program sl.channel r.channel },
     fun sl => { sl with priceClass := program sl.priceClass r.priceClass },
     fun sl => { sl with minutes := program sl.minutes r.minutes }]
  refine ⟨fun hc => ?_, fun c hc => ?_⟩
  · have h := key (head ++ [fun sl => { sl with opened := true, committed := sl.committed || false }])
      (by unfold appendSteps; rw [hc]; rfl)
    refine ⟨h.1, h.2.1.trans ?_, h.2.2⟩
    rcases (by omega : k = 0 ∨ k = 1 ∨ k = 2 ∨ k = 3 ∨ k = 4 ∨ k = 5 ∨ k = 6 ∨ 7 ≤ k) with
      rfl | rfl | rfl | rfl | rfl | rfl | rfl | hk
    all_goals first
      | (obtain ⟨j, rfl⟩ := Nat.exists_eq_add_of_le' hk; simp [head, opening, fieldAfter, e1, e2, e3, e4, e5, e6])
      | simp [head, opening, fieldAfter, e1, e2, e3, e4, e5, e6]
  · rintro ⟨p1, p2, p3, p4⟩
    have h := key (head ++ [fun sl => { sl with price := programMoney sl.price c.price },
        fun sl => { sl with tax := programMoney sl.tax c.tax },
        fun sl => { sl with charge := programMoney sl.charge c.charge },
        fun sl => { sl with commitTime := program sl.commitTime c.time },
        fun sl => { sl with opened := true, committed := sl.committed || true }])
      (by unfold appendSteps; rw [hc]; rfl)
    have q1 := programMoney_fits p1; have q2 := programMoney_fits p2; have q3 := programMoney_fits p3
    have q4 := program_fits p4
    refine ⟨h.1, h.2.1.trans ?_, h.2.2⟩
    rcases (by omega : k = 0 ∨ k = 1 ∨ k = 2 ∨ k = 3 ∨ k = 4 ∨ k = 5 ∨ k = 6 ∨ k = 7 ∨ k = 8 ∨ k = 9 ∨ k = 10 ∨ 11 ≤ k)
      with rfl | rfl | rfl | rfl | rfl | rfl | rfl | rfl | rfl | rfl | rfl | hk
    all_goals first
      | (obtain ⟨j, rfl⟩ := Nat.exists_eq_add_of_le' hk
         simp [head, opening, Slot.paying, fieldAfter, e1, e2, e3, e4, e5, e6, q1, q2, q3, q4])
      | simp [head, opening, Slot.paying, fieldAfter, e1, e2, e3, e4, e5, e6, q1, q2, q3, q4]

/-- What an attempt at an ADVANCE leaves. -/
theorem FolioStore.advance_leaves {f : FolioStore} (hf : f.Whole) (n : Nat) (t : AdvanceTarget) (k : Nat) :
    AdvanceLeaves f (f.programSteps (.advance n t) k) n t k := by
  intro sl hsl isOpen
  have hsteps : f.programSteps (.advance n t) k = ((advanceSteps n t f).take k).foldl (fun f g => g f) f := rfl
  have hidle : (t.blocked sl || t.reached sl) = true ↔ ¬ isOpen := by
    cases t <;> simp [isOpen, AdvanceTarget.blocked, AdvanceTarget.reached] <;> grind
  have key : ∀ gs : List (Slot → Slot), isOpen → advanceSteps n t f = gs.map (FolioStore.onSlot n) →
      SlotAlone f (f.programSteps (.advance n t) k) n ((gs.take k).foldl (fun sl g => g sl) sl) := by
    intro gs ho hgs
    obtain ⟨h1, h2⟩ := FolioStore.slot_range hf (n := n) (by rw [hsl]; exact ho.1)
    obtain ⟨a, b, d⟩ := FolioStore.slot_steps h1 h2 (gs.take k) f hf
    rw [List.map_take, ← hgs, ← hsteps] at a b d
    exact ⟨a, b.trans (by rw [hsl]), d⟩
  refine ⟨fun ho => ?_, fun ho ht => ?_, fun c ho ht => ?_⟩
  · rw [hsteps]; unfold advanceSteps; rw [hsl, if_pos (hidle.2 ho), List.take_nil]; exact ⟨rfl, rfl⟩
  · subst ht
    have h := key [fun sl => { sl with charge := programMoney sl.charge 0 }, fun sl => { sl with previewed := true }] ho
      (by unfold advanceSteps; rw [hsl, if_neg (fun h => hidle.1 h ho)]; rfl)
    refine ⟨h.1, h.2.1.trans ?_, h.2.2⟩
    rcases (by omega : k = 0 ∨ k = 1 ∨ 2 ≤ k) with rfl | rfl | hk
    all_goals first
      | (obtain ⟨j, rfl⟩ := Nat.exists_eq_add_of_le' hk; simp [fieldAfter, programMoney_zero])
      | simp [fieldAfter, programMoney_zero, ho.2.1]
    · rw [← ho.2.1]
  · rintro ⟨p1, p2, p3, p4⟩
    subst ht
    have q1 := programMoney_fits p1; have q2 := programMoney_fits p2; have q3 := programMoney_fits p3
    have q4 := program_fits p4
    have h := key [fun sl => { sl with price := programMoney sl.price c.price },
        fun sl => { sl with tax := programMoney sl.tax c.tax },
        fun sl => { sl with charge := programMoney sl.charge c.charge },
        fun sl => { sl with commitTime := program sl.commitTime c.time },
        fun sl => { sl with committed := true }] ho
      (by unfold advanceSteps; rw [hsl, if_neg (fun h => hidle.1 h ho)]; rfl)
    refine ⟨h.1, h.2.1.trans ?_, h.2.2⟩
    have hcom := ho.2.2
    rcases (by omega : k = 0 ∨ k = 1 ∨ k = 2 ∨ k = 3 ∨ k = 4 ∨ 5 ≤ k) with rfl | rfl | rfl | rfl | rfl | hk
    all_goals first
      | (obtain ⟨j, rfl⟩ := Nat.exists_eq_add_of_le' hk; simp [Slot.paying, fieldAfter, q1, q2, q3, q4])
      | simp [Slot.paying, fieldAfter, q1, q2, q3, q4, hcom]
    · rw [← hcom]

/-- What an attempt at an ADVANCE RANGE leaves. -/
theorem FolioStore.range_leaves {f : FolioStore} (hf : f.Whole) (t : RangeTarget) (ns : List Nat) (k : Nat) :
    RangeLeaves f (f.programSteps (.advanceRange t ns) k) t ns k := by
  have key : ∀ ss : List RecordState, (∀ sl, t.applies sl = ss.contains sl.state) → SlotsMarked f
      (f.programSteps (.advanceRange t ns) k)
      ((ns.filter fun n => (f.slot n).opened && (f.slot n).folio == some f.folio && ss.contains (f.slot n).state).take k)
      t.mark := by
    intro ss hss
    have hl : f.rangeRecords t ns =
        ns.filter fun n => (f.slot n).opened && (f.slot n).folio == some f.folio && ss.contains (f.slot n).state := by
      unfold FolioStore.rangeRecords Slot.isRecordOf; simp only [hss]
    rw [← hl]
    have hr : ∀ n ∈ (f.rangeRecords t ns).take k, 1 ≤ n ∧ n ≤ 256 := by
      intro n hn
      have := (List.mem_filter.1 (List.mem_of_mem_take hn)).2
      simp only [Slot.isRecordOf, Bool.and_eq_true] at this
      exact FolioStore.slot_range hf this.1.1
    have h := FolioStore.slot_marks t.mark (fun sl => by cases t <;> rfl) _ f hf hr
    rw [List.map_take] at h
    exact h
  refine ⟨fun ht => ?_, fun ht => ?_⟩ <;> subst ht
  · exact key [.previewed, .committed] fun sl => by unfold RangeTarget.applies; cases sl.state <;> rfl
  · exact key [.reported] fun sl => by unfold RangeTarget.applies; cases sl.state <;> rfl

/-- What an attempt at a WRITE EXTENSION leaves. -/
theorem FolioStore.extension_leaves {f : FolioStore} (hf : f.Whole) (n minutes k : Nat) :
    ExtensionLeaves f (f.programSteps (.writeExtension n minutes) k) n minutes k := by
  intro sl hsl free
  have hsteps : f.programSteps (.writeExtension n minutes) k =
      ((extensionSteps n minutes f).take k).foldl (fun f g => g f) f := rfl
  have hfree : (f.isPurchase n && (f.slot n).extension.isNone) = true ↔ free := by
    simp [free, FolioStore.isPurchase, Slot.isRecordOf, hsl, and_assoc]
  refine ⟨fun ho => ?_, fun ho => ?_⟩
  · obtain ⟨h1, h2⟩ := FolioStore.slot_range hf (n := n) (by rw [hsl]; exact ho.1)
    obtain ⟨a, b, d⟩ := FolioStore.slot_steps h1 h2 (List.take k [fun sl => { sl with extension := some minutes }]) f hf
    rw [List.map_take] at a b d
    rw [hsteps]; unfold extensionSteps; rw [if_pos (hfree.2 ho)]
    refine ⟨a, b.trans ?_, d⟩
    rw [hsl]
    rcases k with _ | k
    · simp [fieldAfter, ← ho.2.2.2]
    · simp [fieldAfter]
  · rw [hsteps]; unfold extensionSteps; rw [if_neg (fun h => ho (hfree.1 h)), List.take_nil]; exact ⟨rfl, rfl⟩

/-- What an attempt at a WRITE SETTINGS leaves. -/
theorem FolioStore.settings_leaves (f : FolioStore) (b : Bool) (folio : Nat) (v : Standing) (k : Nat) :
    SettingsLeaves f (f.programSteps (.writeSettings b (some (folio, v))) k) folio v k := by
  have hsteps : f.programSteps (.writeSettings b (some (folio, v))) k =
      ((settingsSteps folio v).take k).foldl (fun f g => g f) f := rfl
  have hk : k = 0 ∨ k = 1 ∨ k = 2 ∨ k = 3 ∨ k = 4 ∨ k = 5 ∨ k = 6 ∨ k = 7 ∨ k = 8 ∨ k = 9 ∨ k = 10 ∨ k = 11 ∨ k = 12
      ∨ k = 13 ∨ 14 ≤ k := by omega
  rw [hsteps]
  rcases hk with rfl | rfl | rfl | rfl | rfl | rfl | rfl | rfl | rfl | rfl | rfl | rfl | rfl | rfl | hk
  · exact ⟨rfl, fun _ => rfl, fun h => absurd h (by decide)⟩
  on_goal 14 =>
    rw [List.take_of_length_le (by simpa [settingsSteps] using hk)]
    refine ⟨rfl, fun h => absurd h (by omega), fun _ => ?_⟩
    obtain ⟨j, rfl⟩ := Nat.exists_eq_add_of_le' hk
    simp [settingsSteps, fieldAfter, FolioStore.onPage, Page.erased]
  all_goals exact ⟨rfl, fun h => absurd h (by decide), fun _ => rfl⟩

/-- What an attempt leaves, field by field (R124, R131 to R133, R135, R136). -/
theorem FolioStore.programSteps_leaves {f : FolioStore} (hf : f.Whole) (op : StoreOp) (k : Nat) :
    AttemptLeaves f (f.programSteps op k) op k := by
  match op with
  | .append r => exact f.append_leaves hf r k
  | .advance n t => exact f.advance_leaves hf n t k
  | .advanceRange t ns => exact f.range_leaves hf t ns k
  | .writeExtension n m => exact f.extension_leaves hf n m k
  | .writeSettings _ none => exact ⟨by simp [FolioStore.programSteps, FolioStore.attempted, opSteps],
      by simp [FolioStore.programSteps, FolioStore.attempted, opSteps]⟩
  | .writeSettings b (some (n, v)) => exact f.settings_leaves b n v k
  | .eraseSector _ => exact ⟨rfl, rfl⟩
  | .closeMark =>
    rcases k with _ | k
    · exact ⟨rfl, by simp [FolioStore.programSteps, FolioStore.attempted]⟩
    · simp [AttemptLeaves, FolioStore.programSteps, FolioStore.attempted, opSteps, FolioStore.onPage]

/-- What an attempt leaves is read from the sectors and the page. -/
theorem AttemptLeaves.same {f g h : FolioStore} {op : StoreOp} {k : Nat} (hs : h.sectors = g.sectors)
    (hp : h.page = g.page) (ha : AttemptLeaves f g op k) : AttemptLeaves f h op k := by
  obtain ⟨sectors, page⟩ := g
  cases hs; cases hp
  match op with
  | .append _ => exact ha
  | .advance _ _ => exact ha
  | .advanceRange _ _ => exact ha
  | .writeExtension _ _ => exact ha
  | .writeSettings _ none => exact ha
  | .writeSettings _ (some _) => exact ha
  | .eraseSector _ => exact ha
  | .closeMark => exact ha

/-! ## Ranges that find nothing -/

/-- What idleRange tests (R132). -/
theorem FolioStore.idleRange_iff (f : FolioStore) (op : StoreOp) : f.idleRange op = true ↔ IdleRange f op := by
  unfold IdleRange
  cases op with
  | advanceRange t ns =>
    simp only [FolioStore.idleRange, FolioStore.rangeRecords, List.isEmpty_iff, List.filter_eq_nil_iff,
      StoreOp.advanceRange.injEq]
    have hap : ∀ sl : Slot, t.applies sl = true ↔ ¬ (match t with
      | .reported => sl.state ≠ .previewed ∧ sl.state ≠ .committed
      | .settled => sl.state ≠ .reported) := by
      intro sl; unfold RangeTarget.applies; cases t <;> cases sl.state <;> simp
    constructor
    · intro h
      refine ⟨t, ns, ⟨rfl, rfl⟩, fun n hn h1 h2 => ?_⟩
      have h3 := h n hn
      rw [Bool.and_eq_true, not_and] at h3
      by_contra hc
      exact h3 (by simp [Slot.isRecordOf, h1, h2]) ((hap _).2 hc)
    · rintro ⟨_, _, ⟨rfl, rfl⟩, h⟩ n hn hh
      rw [Bool.and_eq_true] at hh
      have h1 : (f.slot n).opened = true ∧ (f.slot n).folio = some f.folio := by simpa [Slot.isRecordOf] using hh.1
      exact (hap _).1 hh.2 (h n hn h1.1 h1.2)
  | _ => simp [FolioStore.idleRange]

/-- What a range finds is read from the sectors and the folio number. -/
theorem IdleRange.same {f g : FolioStore} (hs : f.sectors = g.sectors) (hn : f.folio = g.folio) (op : StoreOp) :
    IdleRange f op ↔ IdleRange g op := by
  have hslot : ∀ n, f.slot n = g.slot n := fun n => by unfold FolioStore.slot FolioStore.sector; rw [hs]
  unfold IdleRange
  simp only [hslot, hn]

/-- An ADVANCE is no range. -/
theorem advancing_not_idle (f : FolioStore) (n : Nat) : ¬ IdleRange f (advancing n).op := by
  rintro ⟨t, ns, h, -⟩; cases h

/-! ## Joining the queue -/

/-- Operations join a queue that holds one in order. -/
theorem State.pushAll_waiting (ops : List StoreOp) (s : State) (h : s.store.queue ≠ []) :
    s.pushAll ops = { s with store := { s.store with queue := s.store.queue ++ ops.map StoreOp.queued } } := by
  induction ops generalizing s with
  | nil => simp
  | cons o os ih =>
    have h1 : s.push o = { s with store := { s.store with queue := s.store.queue ++ [o.queued] } } := by
      unfold State.push; rw [if_neg h]
    rw [State.pushAll_cons, h1, ih _ (by simp)]
    simp

/-- Operations join an empty queue, the first of them in flight at once. -/
theorem State.pushAll_starts (o : StoreOp) (ops : List StoreOp) (s : State) (h : s.store.queue = [])
    (hi : s.store.idleRange o = false) : s.pushAll (o :: ops) =
      { s with store := { s.store.onStart o with queue := (o.started s).queued :: ops.map StoreOp.queued } } := by
  have h1 : s.push o = { s with store := { s.store.onStart o with queue := [(o.started s).queued] } } := by
    unfold State.push; rw [if_pos h, hi, h]; simp only [Bool.false_eq_true, if_false, List.nil_append]
    unfold State.startHead; dsimp only
    have : StoreOp.started { s with store := { s.store with queue := [{ op := o, retried := false }] } } o
        = o.started s := by cases o <;> rfl
    rw [this]
    cases o <;> rfl
  rw [State.pushAll_cons, h1, State.pushAll_waiting _ _ (by simp)]
  simp

/-- The close's operations on an empty queue, and all that their queueing does (R140). -/
theorem State.startClose_facts (s : State) (h : s.store.queue = []) : { s.startClose with store := s.store } = s
    ∧ { s.startClose.store with queue := s.store.queue, sectors := s.store.sectors } = s.store
    ∧ CloseBegun s.store s.standing s.startClose.store := by
  unfold State.startClose FolioStore.closeOps
  rw [if_pos h]
  by_cases hc : s.store.page.closeMark = true
  · rw [if_pos hc]
    have : s.store.sectorsFromFirst = [0, 1, 2, 3].dropWhile fun k => (s.store.sector k).whollyErased := rfl
    rcases he : s.store.sectorsFromFirst with _ | ⟨k, more⟩
    · rw [List.map_nil, List.nil_append, State.pushAll_starts _ _ _ h rfl]
      refine ⟨rfl, rfl, rfl, fun x => absurd (hc.symm.trans x) (by simp), fun _ => ?_⟩
      rw [← this, he]
      exact ⟨rfl, fun _ => rfl, by simp⟩
    · rw [List.map_cons, List.cons_append, State.pushAll_starts _ _ _ h rfl]
      refine ⟨rfl, rfl, rfl, fun x => absurd (hc.symm.trans x) (by simp), fun _ => ?_⟩
      rw [← this, he]
      exact ⟨by simp [erasing, StoreOp.started, Function.comp_def], by simp, by simp [FolioStore.onStart]⟩
  · rw [if_neg hc, State.pushAll_starts _ _ _ h rfl]
    exact ⟨rfl, rfl, rfl, fun _ => ⟨rfl, rfl⟩, fun x => absurd x hc⟩

/-! ## The room a completion leaves -/

/-- Taking the oldest number of the marking list. -/
theorem State.takeMarking_eq (s : State) (ha : s.store.accepts = true) : s.takeMarking =
    if s.store.queue.length < 8 then
      { s with buying := { s.buying with marking := s.buying.marking.tail }
               store := { s.store with queue := s.store.queue ++ (s.buying.marking.take 1).map advancing } }
    else s := by
  unfold State.takeMarking
  split
  · rename_i h; split
    · rw [h]; simp only [List.tail_nil, List.take_nil, List.map_nil, List.append_nil]; rw [← h]
    · rfl
  · rename_i n rest h
    simp only [State.push_advance, ha, FolioStore.queueFull, h]
    by_cases hl : s.store.queue.length < 8
    · rw [if_pos hl, if_pos (by simpa using hl)]; rfl
    · rw [if_neg hl, if_neg (by simpa using hl)]

/-- Taking the oldest number of the scan list. -/
theorem State.takeScanList_eq (s : State) (ha : s.store.accepts = true) : s.takeScanList =
    if s.store.queue.length < 8 then
      { s with store := { s.store with scanList := s.store.scanList.tail
                                       queue := s.store.queue ++ (s.store.scanList.take 1).map advancing } }
    else s := by
  unfold State.takeScanList
  split
  · rename_i h; split
    · rw [h]; simp only [List.tail_nil, List.take_nil, List.map_nil, List.append_nil]; rw [← h]
    · rfl
  · rename_i n rest h
    simp only [State.push_advance, ha, FolioStore.queueFull, h]
    by_cases hl : s.store.queue.length < 8
    · rw [if_pos hl, if_pos (by simpa using hl)]; rfl
    · rw [if_neg hl, if_neg (by simpa using hl)]

/-- What the room in a queue that has some takes (R109, R129). -/
theorem State.fillRoom_eq (s : State) (ha : s.store.accepts = true) (hl : s.store.queue.length < 8) :
    let scanned := if s.store.queue.length < 7 ∨ s.buying.marking = [] then s.store.scanList.take 1 else []
    s.fillRoom = { s with
      buying := { s.buying with marking := s.buying.marking.tail }
      store := { s.store with
        scanList := s.store.scanList.drop scanned.length
        queue := s.store.queue ++ (s.buying.marking.take 1 ++ scanned).map advancing } } := by
  dsimp only
  generalize hs :
    (if s.store.queue.length < 7 ∨ s.buying.marking = [] then s.store.scanList.take 1 else []) = scanned
  unfold State.fillRoom
  rw [State.takeMarking_eq s ha, if_pos hl, State.takeScanList_eq]
  rotate_left
  · exact ha
  dsimp only
  have htl : s.store.scanList.drop (s.store.scanList.take 1).length = s.store.scanList.tail := by
    cases s.store.scanList <;> rfl
  by_cases hm : s.buying.marking = []
  · have : scanned = s.store.scanList.take 1 := hs ▸ if_pos (.inr hm)
    rw [this, htl]
    simp [hm, hl]
  · have h1 : (s.buying.marking.take 1).length = 1 := by cases h : s.buying.marking <;> simp_all
    by_cases h7 : s.store.queue.length < 7
    · have : scanned = s.store.scanList.take 1 := hs ▸ if_pos (.inl h7)
      rw [this, htl, if_pos (by simp only [List.length_append, List.length_map, h1]; omega)]
      simp
    · have : scanned = [] := hs ▸ if_neg (fun h => h.elim h7 hm)
      rw [this, if_neg (by simp only [List.length_append, List.length_map, h1]; omega)]
      simp

/-! ## How the next operation starts -/

/-- A queue as the start of its head leaves it, seen from s. -/
def begunQueue (s : State) (qs : List QueuedOp) : List QueuedOp :=
  (qs.take 1).map (fun q => { q with op := q.op.started s }) ++ qs.tail

/-- All that the start of the head does but to the sectors. -/
theorem State.startHead_facts (s : State) : s.startHead.store.queue = begunQueue s s.store.queue
    ∧ s.startHead.store.scanList = s.store.scanList ∧ { s.startHead with store := s.store } = s := by
  unfold State.startHead
  split
  · rename_i h; simp [begunQueue, h]
  · rename_i q rest h
    refine ⟨by simp [begunQueue, h], ?_, rfl⟩
    unfold FolioStore.onStart; split <;> rfl

/-- The head starts at once if it is no range that finds nothing. -/
theorem State.startNext_busy (more : Nat) (s : State)
    (h : ∀ x rest, s.store.queue = x :: rest → ¬ IdleRange s.store x.op) : s.startNext more = s.startHead := by
  cases more with
  | zero => rfl
  | succ more =>
    rw [State.startNext, if_neg]
    cases hq : s.store.queue with
    | nil => simp
    | cons x rest =>
      have := h x rest hq
      rw [← FolioStore.idleRange_iff] at this
      simpa using this

/-- The ranges at the front that find nothing complete one after another, each leaving room for one number of the list
that has any, and the operation behind them starts (R129, R132). -/
theorem State.startNext_idles (idle : List QueuedOp) : ∀ (more : Nat) (s : State) (others : List QueuedOp),
    s.store.accepts = true → s.store.queue = idle ++ others → s.store.queue.length ≤ 8 →
    (∀ x ∈ idle, IdleRange s.store x.op) → (∀ x rest, others = x :: rest → ¬ IdleRange s.store x.op) →
    (s.buying.marking = [] ∨ s.store.scanList = []) → idle.length ≤ more →
    let t := s.startNext more
    { t with store := s.store, buying := { t.buying with marking := s.buying.marking } } = s
      ∧ t.buying.marking = s.buying.marking.drop idle.length
      ∧ t.store.scanList = s.store.scanList.drop idle.length
      ∧ t.store.queue = begunQueue s
          (others ++ ((s.buying.marking ++ s.store.scanList).take idle.length).map advancing) := by
  induction idle with
  | nil =>
    intro more s others ha hq hl hi ho hm hk t
    have ht : t = s.startHead := State.startNext_busy more s fun x rest h => ho x rest (by rw [hq] at h; simpa using h)
    obtain ⟨a, b, c⟩ := State.startHead_facts s
    have hb : s.startHead.buying = s.buying := by have := congrArg State.buying c; exact this
    rw [ht]
    refine ⟨by rw [hb]; exact congrArg (fun w : State => { w with buying := s.buying }) c, by rw [hb]; rfl,
      by rw [b]; rfl, by rw [a, hq]; simp⟩
  | cons x idle ih =>
    intro more s others ha hq hl hi ho hm hk t
    obtain ⟨more, rfl⟩ : ∃ j, more = j + 1 := ⟨more - 1, by simp at hk; omega⟩
    have hx := hi x (by simp)
    rw [← FolioStore.idleRange_iff] at hx
    have ht : t = (s.popOp.fillRoom).startNext more := by
      show s.startNext (more + 1) = _
      rw [State.startNext, if_pos]; rw [hq]; simpa using hx
    have hpq : s.popOp.store.queue = idle ++ others := by simp [State.popOp, hq]
    have hlen : s.popOp.store.queue.length < 8 := by
      rw [hpq]; rw [hq] at hl; simp only [List.length_append, List.length_cons] at *; omega
    let filled := others ++ ((s.buying.marking ++ s.store.scanList).take 1).map advancing
    let room : State := { s with
      buying := { s.buying with marking := s.buying.marking.drop 1 }
      store := { s.store with scanList := s.store.scanList.drop 1, queue := idle ++ filled } }
    have hfill : s.popOp.fillRoom = room := by
      rw [State.fillRoom_eq s.popOp ha hlen, hpq]
      have e1 : s.popOp.buying = s.buying := rfl
      have e2 : s.popOp.store.scanList = s.store.scanList := rfl
      rw [e1, e2]
      rcases hm with hm | hm <;> simp only [room, filled, hm] <;> simp [State.popOp]
      cases s.store.scanList <;> rfl
    have hL : ((s.buying.marking ++ s.store.scanList).take 1).length ≤ 1 := by simp
    obtain ⟨i1, i2, i3, i4⟩ := ih more room filled ha rfl
      (by rw [hpq] at hlen; simp only [room, filled, List.length_append, List.length_map] at *; omega)
      (fun y hy => (IdleRange.same rfl rfl _).2 (hi y (by simp [hy])))
      (by
        intro y rest hy
        rw [IdleRange.same (f := room.store) (g := s.store) rfl rfl]
        cases hcase : others with
        | nil =>
          simp only [filled, hcase, List.nil_append] at hy
          have : y ∈ List.map advancing ((s.buying.marking ++ s.store.scanList).take 1) := by rw [hy]; simp
          obtain ⟨n, -, rfl⟩ := List.mem_map.1 this
          exact advancing_not_idle _ n
        | cons z zs => simp only [filled, hcase, List.cons_append] at hy; cases hy; exact ho _ _ hcase)
      (by rcases hm with hm | hm <;> [left; right] <;> simp [room, hm]) (by simp at hk; omega)
    rw [ht, hfill]
    refine ⟨?_, by rw [i2]; simp [room], by rw [i3]; simp [room], ?_⟩
    · exact congrArg (fun w : State =>
        { w with store := s.store, buying := { w.buying with marking := s.buying.marking } }) i1
    · have hlast : filled ++ ((s.buying.marking.drop 1 ++ s.store.scanList.drop 1).take idle.length).map advancing
          = others ++ ((s.buying.marking ++ s.store.scanList).take (x :: idle).length).map advancing := by
        simp only [filled]
        rw [List.append_assoc, ← List.map_append]
        congr 2
        rcases hm with hm | hm <;> rw [hm] <;> [cases s.store.scanList; cases s.buying.marking] <;> simp
      rw [i4]
      exact congrArg (begunQueue s) hlast

/-! ## The outcome of a completion -/

/-- A completion on a part that is awake. -/
theorem exec_completion (op : StoreOp) (r : OpResult) {s : State} (ha : Awake s) :
    exec (completionCommand op.kind r) s = .next (State.completion op.kind r s) := by
  cases op <;> exact State.act_awake _ s ha

/-- An OK that what the operation finds does not bar. -/
theorem State.completion_ok {s : State} {q : QueuedOp} {rest : List QueuedOp} (hq : s.store.queue = q :: rest)
    (hc : s.store.contentFails q = false) : State.completion q.op.kind .ok s = s.opDone q.op := by
  unfold State.completion; rw [hq]; simp [hc]

/-- A FAIL of an operation that finds something to program, or that has nothing to find. -/
theorem State.completion_fail {s : State} {q : QueuedOp} {rest : List QueuedOp} (k : Nat)
    (hq : s.store.queue = q :: rest) (hc : s.store.contentFails q = false) : State.completion q.op.kind (.fail k) s =
      if s.store.contentDone q.op then s.opDone q.op else s.opFails q k := by
  unfold State.completion; rw [hq]; simp [hc]

/-- An operation that what it finds makes fail, whatever result is commanded. -/
theorem State.completion_barred {s : State} {q : QueuedOp} {rest : List QueuedOp} (r : OpResult)
    (hq : s.store.queue = q :: rest) (hc : s.store.contentFails q = true) :
    State.completion q.op.kind r s = s.opFails q 0 := by
  unfold State.completion; rw [hq]; simp [hc]

end Sys2Proof.Machine
end

