-- ==== Sys2Proof/WellFormed.lean ====
section
/-!
DEFINITION. Which commands can be sent at all: every number fits the field that carries it (section 12.2), every cell has
its length (section 12.1), and an event names something the part has. A value that fits its field and is out of the
range its rule gives is well formed: the rule refuses it.
-/

namespace Sys2Proof

/-- A value one byte carries. -/
def isByte (n : Nat) : Bool := decide (n < 256)

/-- A value two bytes carry. -/
def isTwoBytes (n : Nat) : Bool := decide (n < 65536)

/-- A value three bytes carry. -/
def isThreeBytes (n : Nat) : Bool := decide (n < 16777216)

/-- A one-byte field whose all-ones value marks it absent (R196). -/
def isOptByte (o : Option Nat) : Bool := o.all fun n => decide (n < 255)

/-- A target value fits its six bytes (section 12.2). -/
def targetFits : Target → Bool
  | .all => true
  | .group g => decide (g < 281474976710656)
  | .room n => decide (n < 281474976710656)
  | .unit u => decide (u < 281474976710656)

/-- Four PIN bytes that are not the UNSET form (R196). -/
def pinFits (p : PinDigits) : Bool :=
  isByte p.d1 && isByte p.d2 && isByte p.d3 && isByte p.d4
    && !(p.d1 == 255 && p.d2 == 255 && p.d3 == 255 && p.d4 == 255)

/-- A slate header section's fields fit their bytes (section 12.2). -/
def headerFits (f : SlateHeaderFields) : Bool :=
  isByte f.form && isTwoBytes f.stream && isByte f.startMark && isByte f.length && isByte f.fillCount
    && isByte f.offset1 && isByte f.kind1 && isByte f.offset2 && isByte f.kind2

/-- Whether a command is one that can be sent. -/
def Instr.wellFormed : Instr → Bool
  | .powerOn => true
  | .powerRemoved _ => true
  | .syncSearch _ bytes => decide (bytes.length = 128)
  | .cellReceived bytes => decide (bytes.length = 128)
  | .outputSlot => true
  | .localSecond => true
  | .streamLost lane => decide (lane < 24)
  | .keyWaitExpiry lane => decide (lane < 24)
  | .programmeSwap channel => decide (1 ≤ channel) && decide (channel ≤ 999)
  | .programmeEnd channel => decide (1 ≤ channel) && decide (channel ≤ 999)
  | .pinEntryTimeout => true
  | .channelEntryTimeout => true
  | .cutAllowanceEnd => true
  | .refusalExpiry => true
  | .compare meter => decide (meter < 8)
  | .terminal meter => decide (meter < 8)
  | .extended meter => decide (meter < 8)
  | .firstByteExpiry => true
  | .framingError => true
  | .badFrame => true
  | .digit _ _ => true
  | .enter _ => true
  | .chPlus _ => true
  | .chMinus _ => true
  | .buy _ => true
  | .cancel _ => true
  | .lock _ => true
  | .rate _ => true
  | .unassignedKeyCode code _ => decide (17 ≤ code) && decide (code ≤ 127)
  | .timeBeacon _ => true
  | .currentNotice _ => true
  | .nextNotice _ => true
  | .assignRoom t room group => targetFits t && isTwoBytes room && isByte group
  | .restart t => targetFits t
  | .loadLane t lane stream kind package keySlot firstBlock blockCount watchCode =>
    targetFits t && isByte lane && isTwoBytes stream && isByte kind && isByte package && isOptByte keySlot
      && isByte firstBlock && isByte blockCount && isByte watchCode
  | .setLaneResponse t lane response => targetFits t && isByte lane && isByte response
  | .loadKey t slot phase _ => targetFits t && isByte slot && isByte phase
  | .clearKey t slot phase => targetFits t && isByte slot && isByte phase
  | .setPackages t _ => targetFits t
  | .loadChannel t entry form number picture sound package defaultClass pay =>
    targetFits t && isByte entry && isByte form && isTwoBytes number && isByte picture && isOptByte sound
      && isByte package && isByte defaultClass && isByte pay
  | .loadRatingMap t classes => targetFits t && decide (classes.length = 16) && classes.all isByte
  | .setCeiling t ceiling scope threshold => targetFits t && isByte ceiling && isByte scope && isOptByte threshold
  | .setPin t pin => targetFits t && pin.all pinFits
  | .setUnlockMinutes t minutes => targetFits t && isByte minutes
  | .loadPrice t priceClass _ rentalMinutes previewSeconds =>
    targetFits t && isByte priceClass && isTwoBytes rentalMinutes && isTwoBytes previewSeconds
  | .setBilling t enabled taxRate dayCap dayStart defaultCredit =>
    targetFits t && isByte enabled && isTwoBytes taxRate && isThreeBytes dayCap && isByte dayStart
      && isThreeBytes defaultCredit
  | .setCredit t limit => targetFits t && isThreeBytes limit
  | .extendRental t record minutes => targetFits t && isTwoBytes record && isTwoBytes minutes
  | .closeFolio t folio force => targetFits t && isTwoBytes folio && isByte force
  | .loadSlateHeader t kind position fields => targetFits t && isByte kind && isByte position && headerFits fields
  | .loadSlatePayload t kind position sect bytes =>
    targetFits t && isByte kind && isByte position && decide (sect < 255) && decide (bytes.length = 40)
  | .setCutMode t mode => targetFits t && isByte mode
  | .pollStatus t => targetFits t
  | .pollRecords t first count => targetFits t && isTwoBytes first && isByte count
  | .pollLane t lane => targetFits t && isTwoBytes lane
  | .settle t folio through => targetFits t && isTwoBytes folio && isTwoBytes through
  | .clearNotices t _ => targetFits t
  | .setNoticeMask t _ => targetFits t
  | .unknownCommand t => targetFits t
  | .appendCompletes _ => true
  | .advanceCompletes _ => true
  | .advanceRangeCompletes _ => true
  | .writeExtensionCompletes _ => true
  | .writeSettingsCompletes _ => true
  | .eraseSectorCompletes _ => true
  | .closeMarkCompletes _ => true
  | .scan => true
  | .frameSent => true
  | .firstByteReceived _ => true

end Sys2Proof
end

