-- ==== Sys2Proof/Tests/Slice0.lean ====
section
/-!
SUPPORT. Tests on small states: an ill-formed command for each check of WellFormed; for each statement with hypotheses
a state and operands that meet them, clause by clause; and single steps whose results the manual's worked cases and
tables give.
-/

namespace Sys2Proof.Tests

open Sys2Proof.Machine

set_option Elab.async false

/-! ## Ill-formed commands -/

theorem test_wf_cell_length : (Instr.cellReceived []).wellFormed = false := by decide
theorem test_wf_search_length : (Instr.syncSearch 0 []).wellFormed = false := by decide
theorem test_wf_stream_lost_lane : (Instr.streamLost 24).wellFormed = false := by decide
theorem test_wf_key_wait_lane : (Instr.keyWaitExpiry 24).wellFormed = false := by decide
theorem test_wf_swap_channel : (Instr.programmeSwap 0).wellFormed = false
    ∧ (Instr.programmeSwap 1000).wellFormed = false := by
  decide
theorem test_wf_end_channel : (Instr.programmeEnd 0).wellFormed = false ∧ (Instr.programmeEnd 1000).wellFormed =
    false := by
  decide
theorem test_wf_meters : (Instr.compare 8).wellFormed = false ∧ (Instr.terminal 8).wellFormed = false
    ∧ (Instr.extended 8).wellFormed = false := by decide
theorem test_wf_key_code : (Instr.unassignedKeyCode 16 false).wellFormed = false
    ∧ (Instr.unassignedKeyCode 128 false).wellFormed = false := by decide
theorem test_wf_target : (Instr.setPackages (.unit 281474976710656) 0).wellFormed = false
    ∧ (Instr.restart (.room 281474976710656)).wellFormed = false
    ∧ (Instr.pollStatus (.group 281474976710656)).wellFormed = false := by decide
theorem test_wf_assign_room : (Instr.assignRoom .all 65536 0).wellFormed = false
    ∧ (Instr.assignRoom .all 0 256).wellFormed = false := by decide
theorem test_wf_load_lane : (Instr.loadLane .all 256 0 0 0 none 0 1 0).wellFormed = false
    ∧ (Instr.loadLane .all 0 65536 0 0 none 0 1 0).wellFormed = false
    ∧ (Instr.loadLane .all 0 0 256 0 none 0 1 0).wellFormed = false
    ∧ (Instr.loadLane .all 0 0 0 256 none 0 1 0).wellFormed = false
    ∧ (Instr.loadLane .all 0 0 0 0 (some 255) 0 1 0).wellFormed = false
    ∧ (Instr.loadLane .all 0 0 0 0 none 256 1 0).wellFormed = false
    ∧ (Instr.loadLane .all 0 0 0 0 none 0 256 0).wellFormed = false
    ∧ (Instr.loadLane .all 0 0 0 0 none 0 1 256).wellFormed = false := by decide
theorem test_wf_lane_response : (Instr.setLaneResponse .all 256 0).wellFormed = false
    ∧ (Instr.setLaneResponse .all 0 256).wellFormed = false := by decide
theorem test_wf_keys : (Instr.loadKey .all 256 0 0).wellFormed = false
    ∧ (Instr.loadKey .all 0 256 0).wellFormed = false
    ∧ (Instr.clearKey .all 256 0).wellFormed = false ∧ (Instr.clearKey .all 0 256).wellFormed = false := by decide
theorem test_wf_load_channel : (Instr.loadChannel .all 256 0 1 0 none 0 0 0).wellFormed = false
    ∧ (Instr.loadChannel .all 0 256 1 0 none 0 0 0).wellFormed = false
    ∧ (Instr.loadChannel .all 0 0 65536 0 none 0 0 0).wellFormed = false
    ∧ (Instr.loadChannel .all 0 0 1 256 none 0 0 0).wellFormed = false
    ∧ (Instr.loadChannel .all 0 0 1 0 (some 255) 0 0 0).wellFormed = false
    ∧ (Instr.loadChannel .all 0 0 1 0 none 256 0 0).wellFormed = false
    ∧ (Instr.loadChannel .all 0 0 1 0 none 0 256 0).wellFormed = false
    ∧ (Instr.loadChannel .all 0 0 1 0 none 0 0 256).wellFormed = false := by decide
theorem test_wf_rating_map : (Instr.loadRatingMap .all []).wellFormed = false
    ∧ (Instr.loadRatingMap .all (List.replicate 16 256)).wellFormed = false := by decide
theorem test_wf_ceiling : (Instr.setCeiling .all 256 0 none).wellFormed = false
    ∧ (Instr.setCeiling .all 0 256 none).wellFormed = false
    ∧ (Instr.setCeiling .all 0 0 (some 255)).wellFormed = false := by decide
theorem test_wf_pin : (Instr.setPin .all (some ⟨256, 0, 0, 0⟩)).wellFormed = false
    ∧ (Instr.setPin .all (some ⟨255, 255, 255, 255⟩)).wellFormed = false := by decide
theorem test_wf_unlock_minutes : (Instr.setUnlockMinutes .all 256).wellFormed = false := by decide
theorem test_wf_price : (Instr.loadPrice .all 256 0 1 0).wellFormed = false
    ∧ (Instr.loadPrice .all 0 0 65536 0).wellFormed = false
    ∧ (Instr.loadPrice .all 0 0 1 65536).wellFormed = false := by decide
theorem test_wf_billing : (Instr.setBilling .all 256 0 0 0 0).wellFormed = false
    ∧ (Instr.setBilling .all 0 65536 0 0 0).wellFormed = false
    ∧ (Instr.setBilling .all 0 0 16777216 0 0).wellFormed = false
    ∧ (Instr.setBilling .all 0 0 0 256 0).wellFormed = false
    ∧ (Instr.setBilling .all 0 0 0 0 16777216).wellFormed = false := by decide
theorem test_wf_credit : (Instr.setCredit .all 16777216).wellFormed = false := by decide
theorem test_wf_extend : (Instr.extendRental .all 65536 1).wellFormed = false
    ∧ (Instr.extendRental .all 1 65536).wellFormed = false := by decide
theorem test_wf_close : (Instr.closeFolio .all 65536 0).wellFormed = false
    ∧ (Instr.closeFolio .all 1 256).wellFormed = false := by decide

/-- A slate header section with every field 0. -/
def fields0 : SlateHeaderFields :=
  { form := 0, stream := 0, startMark := 0, length := 0, fillCount := 0, offset1 := 0, kind1 := 0, offset2 := 0,
    kind2 := 0 }

theorem test_wf_slate_header : (Instr.loadSlateHeader .all 256 0 fields0).wellFormed = false
    ∧ (Instr.loadSlateHeader .all 0 256 fields0).wellFormed = false
    ∧ (Instr.loadSlateHeader .all 0 0 { fields0 with form := 256 }).wellFormed = false
    ∧ (Instr.loadSlateHeader .all 0 0 { fields0 with stream := 65536 }).wellFormed = false
    ∧ (Instr.loadSlateHeader .all 0 0 { fields0 with startMark := 256 }).wellFormed = false
    ∧ (Instr.loadSlateHeader .all 0 0 { fields0 with length := 256 }).wellFormed = false
    ∧ (Instr.loadSlateHeader .all 0 0 { fields0 with fillCount := 256 }).wellFormed = false
    ∧ (Instr.loadSlateHeader .all 0 0 { fields0 with offset1 := 256 }).wellFormed = false
    ∧ (Instr.loadSlateHeader .all 0 0 { fields0 with kind1 := 256 }).wellFormed = false
    ∧ (Instr.loadSlateHeader .all 0 0 { fields0 with offset2 := 256 }).wellFormed = false
    ∧ (Instr.loadSlateHeader .all 0 0 { fields0 with kind2 := 256 }).wellFormed = false := by decide
theorem test_wf_slate_payload : (Instr.loadSlatePayload .all 0 0 0 []).wellFormed = false
    ∧ (Instr.loadSlatePayload .all 256 0 0 (List.replicate 40 0)).wellFormed = false
    ∧ (Instr.loadSlatePayload .all 0 256 0 (List.replicate 40 0)).wellFormed = false
    ∧ (Instr.loadSlatePayload .all 0 0 255 (List.replicate 40 0)).wellFormed = false := by decide
theorem test_wf_cut_mode : (Instr.setCutMode .all 256).wellFormed = false := by decide
theorem test_wf_poll : (Instr.pollRecords .all 65536 1).wellFormed = false
    ∧ (Instr.pollRecords .all 1 256).wellFormed = false ∧ (Instr.pollLane .all 65536).wellFormed = false := by decide
theorem test_wf_settle : (Instr.settle .all 65536 1).wellFormed = false
    ∧ (Instr.settle .all 1 65536).wellFormed = false := by decide

/-! ## The states the tests start from -/

/-- A ready part in room 5 of group 1. -/
def base : State :=
  { State.reset with
    store := { State.reset.store with queue := [] }
    management := { State.reset.management with room := 5, group := 1 } }

/-- A configuration for stream n at pool block b. -/
def config (stream : Nat) (kind : LaneKind) (keySlot : Option Nat) (firstBlock blockCount : Nat) : LaneConfig :=
  { stream := stream, kind := kind, package := 0, keySlot := keySlot, firstBlock := firstBlock,
    blockCount := blockCount, watchCode := 2 }

/-- A clear picture lane in PASS, ARMED. -/
def lane0 : Lane := { Lane.initial with config := some (config 300 .picture none 0 8), response := .pass, watch := .armed }

/-- A scrambled sound lane in HOLD that names key slot 3. -/
def lane1 : Lane := { Lane.initial with config := some (config 301 .sound (some 3) 8 1), response := .hold }

/-- Channel 7 on lanes 0 and 1, a pay channel. -/
def entry7 : ChannelEntry :=
    { number := 7, picture := 0, sound := some 1, package := 0, defaultClass := 0, pay := true }

/-- A programme of price class 1. -/
def film : Programme := { id := 40, rating := 0, priceClass := 1, start := 0, stop := 2000000 }

/-- Lanes 0 and 1 in place, every package held, price class 1 at 300 cents for 2 minutes with 10 preview seconds,
billing on with credit, hotel time set, ratings all class 0. -/
def shop : State :=
  { base with
    lanes := lane0 :: lane1 :: List.replicate 22 Lane.initial
    packages := 0xFFFFFFFF
    intake := { base.intake with sync := .locked }
    notices := { base.notices with
      hotelTime := some 1000000
      entries := { current := some film, next := none } :: List.replicate 47 { current := none, next := none } }
    lock := { base.lock with map := List.replicate 16 0 }
    buying := { base.buying with
      billing := true
      credit := 1000
      prices := { price := 0, rentalMinutes := 1, previewSeconds := 0 }
        :: { price := 300, rentalMinutes := 2, previewSeconds := 10 }
        :: List.replicate 14 { price := 0, rentalMinutes := 1, previewSeconds := 0 } }
    composer := { base.composer with channels := some entry7 :: List.replicate 47 none } }

/-- Channel 7 is tuned; the decision and the output state are the test's. -/
def tuned (d : View) (o : OutputState) : State :=
  { shop with composer := { shop.composer with tuned := some 7, decision := some d, output := o } }

/-- Key slot 3 holds phase A. -/
def keyed3 : State := { shop with keys := shop.keys.set 3 { a := some 65538, b := none } }

/-- A programme cell. -/
def cell (stream seq : Nat) (mark : KeyMark) (start : Bool) : Cell :=
  { stream := stream, seq := seq, mark := mark, start := start, spareBits := 0, length := 120, spare5 := 0,
    spare6 := 0, payload := 30 :: 200 :: List.replicate 118 0 }

/-- A clear cell in an area. -/
def areaCell (seq order : Nat) (start : Bool) : AreaCell :=
  { cell := cell 300 seq .clear start, held := false, order := order }

/-- What exec answers, as a state. -/
def after (c : Instr) (s : State) : State :=
  match exec c s with
  | .next t => t
  | .fault _ => s
  | .refused _ => s

/-- An operation waiting in the queue. -/
def waiting (op : StoreOp) : QueuedOp := { op := op, retried := false }

/-- A store with these operations. -/
def queue (ops : List StoreOp) (s : State) : State := { s with store := { s.store with queue := ops.map waiting } }

/-- A close in progress. -/
def closing (s : State) : State := { s with store := { s.store with closing := true } }

/-- A COMMITTED record of folio 1, bought at hotel time 999,990 for 2 minutes. -/
def bought : Slot :=
  { Slot.erased with folio := some 1, number := some 1, programme := some 40, channel := some 7, priceClass := some 1,
                     minutes := some 2, price := some 300, tax := some 0, charge := some 300, commitTime :=
                         some 999990,
                     opened := true, committed := true }

/-- That record while it is OPENED. -/
def opened : Slot := { bought with price := none, tax := none, charge := none, commitTime := none, committed := false }

/-- That record once it is PREVIEWED. -/
def previewed : Slot := { opened with charge := some 0, previewed := true }

/-- The store holds this record 1. -/
def holding (sl : Slot) (s : State) : State := { s with store := s.store.onSlot 1 fun _ => sl }

/-- A running preview of the film on channel 7, bound to meter 1 and record 1. -/
def previewing : State :=
  let s := tuned .show .showing
  { s with
    meters := s.meters.set 1 (Meter.preview 40 7 1 10)
    store := { s.store with nextRecord := 2 }
    buying := { s.buying with previews := [{ programme := 40, channel := 7, record := 1, meter := 1, state := .running }] } }

/-- A READY slate cell of 40 bytes with two fill fields. -/
def header : SlateHeader :=
  { stream := 400, start := true, length := 40, fills := [{ offset := 0, kind := .price }, { offset := 32, kind := .channel }] }

/-- The OFFER slate holds READY cells at positions 1 and 3. -/
def slated (last : Option Nat) : State :=
  let s := tuned (.slate .offer) (.slate .offer last 15)
  { s with composer := { s.composer with slates :=
    ((s.composer.slates.set 21 (.ready header (List.replicate 120 1))).set 23 (.ready header (List.replicate 120 2))) } }

/-- The film is rented on meter 1, from record 1. -/
def renting (x : Extension) : State :=
  let s := holding bought shop
  { s with
    meters := s.meters.set 1 (Meter.rental 40 1 120)
    buying := { s.buying with rentals := [{ programme := 40, record := 1, meter := 1, endTime := 1000110, extension := x }] } }

/-- An accepted preview buy in flight: record 1 is OPENED, meter 1 is held for it. -/
def buying : State :=
  let s := queue [.advance 1 (.committed { price := 300, tax := 0, charge := 300, time := 1000000 })] (holding
    { bought with price := none, tax := none, charge := none, commitTime := none, committed := false } previewing)
  { s with
    meters := s.meters.set 1 { Meter.preview 40 7 1 10 with hold := some 40 }
    buying := { s.buying with
      previews := [{ programme := 40, channel := 7, record := 1, meter := 1, state := .buying }]
      commits := [{ programme := 40, record := 1, meter := 1, charge := 300, time := 1000000, kind := .fromPreview }] } }

/-- A part that has just taken a RESTART (R184). -/
def restarted (s : State) : State := s.restart

/-- Power applied again after a cut in a close of s, its close mark programmed and no ERASE SECTOR begun (R142). -/
def resuming (s : State) : State :=
  State.powerOn { s with store := { s.store with page := { Page.erased with closeMark := true } } }

/-! ## Hypotheses that are met -/

theorem test_base_awake : Awake base ∧ Awake shop := by decide

theorem witness_step_takes_the_front_command :
    ({ base with pending := [.scan, .enter false] } : State).pending = .scan :: [.enter false] ∧ base.pending =
        [] := by
  decide

theorem witness_no_command_stops_the_block :
    ({ base with powered := false } : State).powered = false ∧ Instr.localSecond ≠ .powerOn := by decide

/-- A part with events left due, and one that has just taken a RESTART. -/
theorem witness_events_of_a_tick_come_first :
    let s : State := { shop with due := [.refusalExpiry, .programmeEnd 7] }
    (restarted shop).powered = true ∧ (restarted shop).keypad.restarted = true ∧ Instr.scan.isKeyFrame = false
      ∧ (Instr.digit 7 false).isKeyFrame = true ∧ shop.keypad.restarted = false ∧ s.powered = true ∧ .programmeEnd 7 ∈ s.due ∧ .compare 0 ∉ s.due ∧ Instr.outputSlot.isTickEvent = false
      ∧ Instr.outputSlot.isPower = false ∧ (Instr.compare 0).isTickEvent = true ∧ base.due = [] := by decide

/-- A scan that is awaited, with and without a restoration that waits for it, one held back by an operation in flight,
and one that is not awaited; an erased and a written page, a page with the close mark, and slots with and without
records. -/
theorem witness_scan_reads_page_and_slots :
    let awaits (s : State) : State := { s with store := { s.store with awaitingScan := true } }
    let page (p : Page) (s : State) : State := { s with store := { s.store with page := p } }
    let restoring (s : State) : State := { s with store := { s.store with restoreWaiting := true } }
    let closed : Page := { Page.erased with closeMark := true }
    Awake (awaits shop) ∧ (awaits shop).store.awaitingScan = true ∧ (awaits shop).store.queue = []
      ∧ (awaits shop).store.restoreWaiting = false ∧ (restoring (awaits shop)).store.restoreWaiting = true
      ∧ shop.store.awaitingScan = false ∧ (awaits (queue [.closeMark] shop)).store.queue ≠ []
      ∧ (awaits shop).store.page.folio = none ∧ (awaits shop).store.page.validMark = false
      ∧ (∀ p ∈ (awaits shop).store.slots, p.1.opened = false)
      ∧ (holding bought shop).store.slots.head? = some (bought, 1) ∧ bought.opened = true ∧ bought.folio = some 1
      ∧ (page { Page.erased with folio := some 9, validMark := true } shop).store.page.folio = some 9
      ∧ (page { Page.erased with folio := some 9, validMark := true } shop).store.page.validMark = true
      ∧ (page closed shop).store.page.closeMark = true ∧ (awaits shop).store.page.closeMark = false
      ∧ (page closed (holding bought shop)).store.page.closeMark = true
      ∧ ([0, 1, 2, 3].filter fun k => !((holding bought shop).store.sector k).whollyErased) = 0 :: []
      ∧ ([0, 1, 2, 3].filter fun k => !(shop.store.sector k).whollyErased) = [] := by
  decide +kernel

/-- An operation of each kind in flight on a slot it can program, and the step before its mark and that of it. -/
theorem witness_power_removed_keeps_stored_content :
    let paid : CommitFields := { price := 300, tax := 0, charge := 300, time := 1000000 }
    let append (c : Option CommitFields) : StoreOp := .append
      { folio := 1, number := 256, programme := 40, channel := 7, priceClass := 1, minutes := 2, commit := c }
    let page (k : Nat) := (base.store.programSteps (.writeSettings false (some (1, Standing.initial))) k).page
    let marks (f : FolioStore) (op : StoreOp) (n k : Nat) : Slot := (f.programSteps op k).slot n
    let unpaid := (holding { bought with price := none, tax := none, charge := none, commitTime := none,
                                         committed := false } shop).store
    base.powered = true ∧ base.store.queue = [] ∧ Sized shop ∧ Sized (holding opened shop) ∧ Sized (holding bought shop)
      ∧ (queue [.advance 1 .previewed] base).store.queue = waiting (.advance 1 .previewed) :: []
      ∧ (queue [.eraseSector 3] base).store.queue = waiting (.eraseSector 3) :: []
      ∧ shop.store.slot 256 = Slot.erased ∧ (marks shop.store (append none) 256 6).opened = false
      ∧ (marks shop.store (append none) 256 7).opened = true ∧ (marks shop.store (append paid) 256 10).opened = false
      ∧ (marks shop.store (append paid) 256 10).charge = some 300
      ∧ (marks shop.store (append paid) 256 11).state = .committed
      ∧ (marks (holding opened shop).store (.advance 1 .previewed) 1 1).state = .opened
      ∧ (marks (holding opened shop).store (.advance 1 .previewed) 1 2).state = .previewed
      ∧ FitsCommit (unpaid.slot 1) paid ∧ (marks unpaid (.advance 1 (.committed paid)) 1 4).state = .opened
      ∧ (marks unpaid (.advance 1 (.committed paid)) 1 5).state = .committed
      ∧ (marks (holding bought shop).store (.advanceRange .reported [1]) 1 1).state = .reported
      ∧ (marks (holding bought shop).store (.writeExtension 1 2) 1 1).extension = some 2
      ∧ (page 0 = base.store.page ∧ (page 13).validMark = false ∧ (page 14).validMark = true)
      ∧ (base.store.programSteps .closeMark 1).page.closeMark = true := by decide +kernel

theorem witness_restart_keeps_store_and_settings : Meant base (.room 5) .restart := by decide

/-- Every way a header is damaged, and a good one: the sync value, the header check, the length, the key mark. -/
theorem test_header_checks :
    let good : List Byte := [0xB8, 0x12, 0xC5, 0x00, 0x78, 0, 0, 0x07] ++ List.replicate 120 0
    (cellOf good).isSome = true ∧ cellOf (good.set 0 0xB9) = none ∧ cellOf (good.set 7 0x08) = none
      ∧ cellOf ((good.set 4 0x79).set 7 0x08) = none ∧ cellOf ((good.set 3 0xC0).set 7 0xC7) = none := by
  decide +kernel

theorem witness_locked_header_drops_or_discards :
    let damaged (n : Nat) : State := { shop with intake := { shop.intake with damageRun := n } }
    Awake shop ∧ shop.intake.sync = .locked ∧ cellOf [] = none ∧ (damaged 1).intake.damageRun < 2
      ∧ 2 ≤ (damaged 2).intake.damageRun
      ∧ cellOf (cell 4095 0 .clear false).bytes = some (cell 4095 0 .clear false)
      ∧ cellOf (cell 4089 0 .clear false).bytes = some (cell 4089 0 .clear false)
      ∧ cellOf (cell 4092 0 .phaseA false).bytes = some (cell 4092 0 .phaseA false)
      ∧ cellOf (cell 4079 0 .clear false).bytes = some (cell 4079 0 .clear false)
      ∧ ∀ l ∈ shop.lanes, l.configured = true → l.config.map (·.stream) ≠ some 4079 := by decide +kernel

theorem witness_search_locks_on_third_good_header :
    let run (n : Nat) : State := { base with intake := { base.intake with goodRun := n } }
    Awake (run 0) ∧ (run 0).intake.sync = .search ∧ (run 0).intake.goodRun = 0 ∧ (run 1).intake.goodRun = 1
      ∧ (run 2).intake.goodRun = 2 ∧ cellOf [] = none ∧ 1 ≤ (run 1).intake.goodRun
      ∧ cellOf (cell 4095 0 .clear false).bytes = some (cell 4095 0 .clear false) := by decide +kernel

/-- A cell on a clear lane in PASS, tuned and not, with room and without, under SHOW and under a slate; and on a lane in
HOLD whose key slot opens it. -/
theorem witness_accepted_cell_counts_and_checks_sequence :
    let c := cell 300 5 .clear true
    let d := cell 301 5 .phaseA false
    let t := tuned .show .showing
    let full := t.setLane 0 { lane0 with area := List.replicate 8 (areaCell 1 1 false) }
    let unsold : State := { tuned (.slate .notSubscribed) (.slate .notSubscribed none 0) with packages := 0 }
    Awake t ∧ cellOf c.bytes = some c ∧ c.stream ≤ 4079 ∧ t.laneOfStream 300 = some 0 ∧ t.intake.sync = .locked
      ∧ t.tunedLane 0 = true ∧ shop.tunedLane 0 = false ∧ (t.lane 0).response ≠ .block ∧ (t.lane 0).response = .pass
      ∧ (t.lane 0).config = some (config 300 .picture none 0 8) ∧ (t.lane 0).keyStatus = .keyed
      ∧ (t.lane 1).response = .hold ∧ cellOf d.bytes = some d ∧ t.laneOfStream d.stream = some 1
      ∧ t.tunedLane 1 = true ∧ (t.lane 1).config = some (config 301 .sound (some 3) 8 1) ∧ d.mark.phase = some .a
      ∧ ({ t with keys := keyed3.keys } : State).keyOf 3 .a = some 65538
      ∧ (config 300 .picture none 0 8).blockCount ≤ (full.lane 0).area.length
      ∧ (after (.cellReceived c.bytes) t).composer.output = .showing
      ∧ (after (.cellReceived c.bytes) unsold).composer.output = .slate .notSubscribed none 0
      ∧ ({ t with intake := { t.intake with sync := .search, goodRun := 2 } } : State).intake.goodRun = 2 := by
  decide +kernel

theorem witness_scrambled_cell_blocks_a_clear_lane :
    let c := cell 300 5 .phaseA false
    let searching : State := { shop with intake := { shop.intake with sync := .search, goodRun := 2 } }
    Awake shop ∧ shop.intake.sync = .locked ∧ cellOf c.bytes = some c ∧ c.stream ≤ 4079
      ∧ shop.laneOfStream c.stream = some 0 ∧ (shop.lane 0).response ≠ .block ∧ (shop.lane 0).keySlot = none
      ∧ c.mark ≠ .clear ∧ searching.intake.sync = .search ∧ searching.intake.goodRun = 2
      ∧ searching.laneOfStream c.stream = some 0 ∧ (searching.lane 0).response ≠ .block := by decide +kernel

/-- Lane 1, whose key slot 3 holds phase A alone, in each key status, tuned and not, with and without room. -/
theorem witness_absent_phase_waits_tuned_misses_untuned :
    let b := cell 301 5 .phaseB false
    let a := cell 301 5 .phaseA false
    let clear := cell 301 5 .clear false
    let t : State := { tuned .show .showing with keys := keyed3.keys }
    let status (k : KeyStatus) : State := t.setLane 1 { lane1 with keyStatus := k }
    let full := t.setLane 1 { lane1 with area := [areaCell 1 1 false] }
    Awake t ∧ t.intake.sync = .locked ∧ cellOf b.bytes = some b ∧ cellOf a.bytes = some a
      ∧ cellOf clear.bytes = some clear ∧ b.stream ≤ 4079 ∧ t.laneOfStream b.stream = some 1
      ∧ (t.lane 1).response ≠ .block ∧ (t.lane 1).config = some (config 301 .sound (some 3) 8 1)
      ∧ (config 301 .sound (some 3) 8 1).keySlot = some 3 ∧ b.mark.phase = some .b ∧ t.keyOf 3 .b = none
      ∧ a.mark.phase = some .a ∧ t.keyOf 3 .a = some 65538 ∧ clear.mark = .clear
      ∧ (t.lane 1).keyStatus = .keyed ∧ t.tunedLane 1 = true ∧ keyed3.tunedLane 1 = false
      ∧ ((status .keyless).lane 1).keyStatus = .keyless
      ∧ ((status (.keywait 0 3 .b)).lane 1).keyStatus = .keywait 0 3 .b ∧ (status .keyless).tunedLane 1 = true
      ∧ (config 301 .sound (some 3) 8 1).blockCount ≤ (full.lane 1).area.length ∧ (t.lane 1).area.length < 1
      ∧ (t.lane 1).response = .hold
      ∧ ({ t with intake := { t.intake with sync := .search, goodRun := 2 } } : State).intake.goodRun = 2 := by
  decide +kernel

/-- A service cell on this stream whose payload begins with these bytes. -/
def serviceCell (stream length : Nat) (bytes : List Byte) : Cell :=
  { cell stream 0 .clear false with length := length, payload := bytes ++ List.replicate (120 - bytes.length) 0 }

/-- A management cell that carries these bytes for room 5. -/
def roomCell (length : Nat) (bytes : List Byte) : Cell := serviceCell 4090 length ([2, 0, 0, 0, 0, 0, 5] ++ bytes)

/-- A management cell for each kind of target, for no room, for another, of too few bytes and of just enough; one for
each command with its parameters complete and with one byte too few, at the edges of its forms; a beacon and a notice.
-/
theorem witness_management_cell_acts_or_is_discarded :
    let c := roomCell 11 [14, 0, 3, 232]
    let n (c : Cell) (start width : Nat) : Nat := num c.payload start width
    let notice (channel slot : Byte) : Cell := serviceCell 4092 14 [0, channel, slot, 0, 40, 0x21]
    Awake shop ∧ shop.intake.sync = .locked ∧ cellOf c.bytes = some c ∧ c.stream = 4090 ∧ c.mark = .clear
      ∧ ({ shop with intake := { shop.intake with sync := .search, goodRun := 2 } } : State).intake.goodRun = 2
      ∧ c.payload.length = 120 ∧ 7 ≤ c.length ∧ n c 0 1 = 2 ∧ n c 1 6 = 5 ∧ shop.addressed (.room 5) = true
      ∧ n c 7 1 = 14 ∧ 8 + 3 ≤ c.length ∧ n c 8 3 = 1000 ∧ (roomCell 10 [14, 0, 3, 232]).length < 8 + 3
      ∧ (cellOf (roomCell 6 []).bytes = some (roomCell 6 []) ∧ (roomCell 6 []).length < 7)
      ∧ (roomCell 7 []).length = 7 ∧ 23 ≤ n (roomCell 8 [23]) 7 1 ∧ 4 ≤ n (serviceCell 4090 8 [4]) 0 1
      ∧ n (serviceCell 4090 8 [2, 0, 0, 0, 0, 0, 6]) 1 6 = 6 ∧ shop.addressed (.room 6) = false
      ∧ shop.addressed .all = true ∧ shop.addressed (.group 1) = true
      ∧ ((List.range 23).all fun k => n (roomCell 120 [BitVec.ofNat 8 k]) 7 1 == k) = true
      ∧ (n (roomCell 24 [17, 8, 3, 0]) 10 1 = 0 ∧ n (roomCell 51 [17, 8, 3, 1]) 10 1 = 1
          ∧ n (roomCell 51 [17, 8, 3, 3]) 10 1 = 3 ∧ 3 < n (roomCell 51 [17, 8, 3, 4]) 10 1)
      ∧ (n (roomCell 12 [19, 0]) 8 1 = 0 ∧ n (roomCell 12 [19, 1]) 8 1 = 1 ∧ n (roomCell 12 [19, 2]) 8 1 = 2
          ∧ 2 < n (roomCell 12 [19, 3]) 8 1)
      ∧ (cellOf (serviceCell 4091 3 []).bytes = some (serviceCell 4091 3 []) ∧ 4 ≤ (serviceCell 4091 4 []).length)
      ∧ (cellOf (serviceCell 4092 13 []).bytes = some (serviceCell 4092 13 []) ∧ 14 ≤ (notice 7 0).length)
      ∧ n (notice 7 0) 2 1 = 0 ∧ n (notice 7 1) 2 1 = 1 ∧ 1 < n (notice 7 2) 2 1 ∧ n (notice 7 2) 0 2 = 7
      ∧ shop.entryIndex 7 ≠ none ∧ shop.entryIndex 8 = none := by decide +kernel

theorem witness_unit_target : shop.addressed (.unit shop.management.unitId) = true := by
  show (Config.unitId != 0 && Config.unitId == Config.unitId) = true
  simp [Config.unitId]

theorem witness_targets_that_address_a_room : base.management.room ≤ 9999 ∧ base.management.group ≤ 63
    ∧ base.addressed (.room 5) = true ∧ base.addressed (.group 1) = true ∧ base.addressed (.room 6) = false :=
        by decide

/-- A POLL and a RESTART of ALL, an ASSIGN ROOM of a ROOM, and the same three under the target each takes. -/
theorem witness_targets_decide_discard_and_refusal :
    let misdirected (k : CommandKind) (t : Target) : Prop :=
      k = .assignRoom ∧ (∀ u, t ≠ .unit u) ∨ (k = .restart ∨ k = .poll) ∧ ∀ n, t ≠ .room n
    (Awake base ∧ (Instr.pollStatus .all).managed = some (.all, .poll) ∧ base.addressed .all = true
        ∧ base.addressed (.room 6) = false ∧ base.addressed (.room 5) = true
        ∧ (Instr.unknownCommand .all).managed = some (.all, .unknown))
      ∧ misdirected .poll .all ∧ misdirected .restart .all ∧ misdirected .assignRoom (.room 5)
      ∧ ¬ misdirected .poll (.room 5) ∧ ¬ misdirected .assignRoom (.unit 9) ∧ ¬ misdirected .setPin .all :=
  ⟨by decide, by simp⟩

theorem witness_refused_command_changes_nothing_else :
    Awake base ∧ (Instr.setCredit .all 5).managed = some (.all, .setCredit) ∧ CommandKind.setCredit ≠ .restart := by
  decide

/-- No lane of base is configured. -/
theorem base_lane (j : Nat) : base.lane j = Lane.initial := by
  have h : ∀ n, (List.replicate n Lane.initial).getD j Lane.initial = Lane.initial := by
    intro n
    rw [List.getD_eq_getElem?_getD, List.getElem?_replicate]
    split <;> rfl
  exact h 24

theorem base_noClash (lane : Nat) (c : LaneConfig) : ¬ AreaClash base lane c := by
  rintro ⟨j, d, -, h, -⟩
  rw [base_lane] at h
  exact h rfl

theorem base_bounded : AreasBounded base := by
  intro l hl
  rw [List.eq_of_mem_replicate hl]
  rfl

/-- Lane 23 loaded over the whole range of its fields, beside no other and beside lane 0. -/
theorem witness_load_lane_checks_then_loads :
    Meant base .all .loadLane ∧ AreasBounded base ∧ (base.lane 23).response = .idle
      ∧ ¬ LaneClash base 23 (config 4079 .picture (some 15) 80 16)
      ∧ LaneClash base 23 (config 4079 .picture (some 15) 81 16)
      ∧ LaneClash shop 23 (config 300 .picture none 90 1) ∧ LaneClash shop 23 (config 302 .picture none 8 1)
      ∧ (shop.lane 0).response = .pass ∧ (shop.lane 1).response = .hold := by
  refine ⟨by decide, base_bounded, by decide, ?_, Or.inl (by decide), Or.inr (Or.inl ⟨0, _, by decide,
      by decide, rfl, Or.inl rfl⟩),
    Or.inr (Or.inl ⟨1, _, by decide, by decide, rfl, Or.inr ⟨8, by decide, by decide, by decide, by decide⟩⟩),
        by decide, by decide⟩
  rintro (h | h | ⟨e, h, -⟩)
  · exact absurd h (by decide)
  · exact base_noClash _ _ h
  · exact absurd (List.eq_of_mem_replicate h) (by simp)

theorem witness_set_lane_response_table :
    let loaded (r : Response) : Lane := { lane0 with response := r }
    Meant base .all .setLaneResponse ∧ AreasBounded base ∧ (base.lane 0).response = .idle
        ∧ (base.lane 0).config = none
      ∧ base.laneNamed 0 = false ∧ shop.laneNamed 0 = true ∧ (shop.lane 0).response = .pass
      ∧ (shop.lane 1).response = .hold ∧ Lane.bounded (loaded .block)
      ∧ ((base.setLane 0 (loaded .block)).lane 0).response = .block
      ∧ ((base.setLane 0 (loaded .idle)).lane 0).config = some (config 300 .picture none 0 8)
      ∧ ¬ AreaClash base 0 (config 300 .picture none 0 8) ∧ AreaClash shop 2 (config 300 .picture none 90 1) :=
  ⟨by decide, base_bounded, by decide, by decide, by decide, by decide, by decide, by decide,
    ⟨by decide, by decide, by decide⟩, by decide, by decide, base_noClash _ _,
    0, _, by decide, by decide, rfl, Or.inl rfl⟩

theorem witness_key_and_package_commands :
    Awake keyed3 ∧ keyed3.addressed .all = true ∧ 15 < 16 ∧ 1 < 2 ∧ phaseOf 0 = some .a ∧ phaseOf 1 = some .b
      ∧ keyed3.keyOf 3 .a ≠ none ∧ keyed3.keyOf 15 .b = none ∧ keyed3.keys.length = 16 := by decide

theorem witness_keystream_recovers_payload :
    (cell 300 5 .phaseA false).payload.length = 120 ∧ (cell 300 5 .phaseA false).length ≤ 120 := by decide

theorem shop_sized : Sized shop := by
  refine ⟨by decide, by decide, by decide, by decide, by decide, by decide, by decide, by decide, by decide, ?_⟩
  intro sec h
  rw [List.eq_of_mem_replicate (show sec ∈ List.replicate 4 Sector.erased from h)]
  decide

/-- LOAD CHANNEL of entry 47 and of entry 0, under the same and another number, tuned and not, and EMPTY. -/
theorem witness_load_channel_checks_and_effect :
    Meant shop .all .loadChannel ∧ Sized shop ∧ shop.entryAt 0 = some entry7 ∧ shop.entryAt 47 = none
      ∧ entry7.number = 7 ∧ (tuned .show .showing).composer.tuned = some 7 ∧ shop.composer.tuned ≠ some 7
      ∧ ((shop.lane 0).response ≠ .idle ∧ (shop.lane 0).config.map (·.kind) = some .picture)
      ∧ ((shop.lane 1).response ≠ .idle ∧ (shop.lane 1).config.map (·.kind) = some .sound)
      ∧ (shop.lane 1).config.map (·.kind) ≠ some .picture ∧ (shop.noticeAt 0).current ≠ none
      ∧ ((shop.setNotice 0 { current := none, next := none }).noticeAt 0).current = none
      ∧ entry7.names 1 = true ∧ entry7.names 2 = false ∧ { entry7 with sound := none }.names 1 = false
      ∧ { entry7 with picture := 2 }.picture ≠ entry7.picture :=
  ⟨by decide, shop_sized, by decide⟩

/-- Channel 7 asks for a preview; its view decision held and new, from each output state. -/
theorem witness_view_decision_rows :
    let next (area : List AreaCell) (mode : CutMode) : State :=
      { tuned .show .showing with
        lanes := { lane0 with area := area, response := .hold } :: lane1 :: []
        composer := { (tuned .show .showing).composer with cutMode := mode } }
    (shop.viewDecision entry7).2 = true ∧ shop.tunedEntry = none ∧ (tuned .show .showing).tunedEntry = some entry7
      ∧ ((next [] .boundary).viewDecision entry7).1 = .slate .notSubscribed
      ∧ (next [] .boundary).composer.decision ≠ some (.slate .notSubscribed)
      ∧ (next [] .immediate).composer.output = .showing ∧ (next [] .boundary).composer.cutMode = .boundary
      ∧ (tuned .show (.cutting 3)).composer.output = .cutting 3 ∧ (slated none).composer.output = .slate .offer none 15
      ∧ ((tuned .show .showing).viewDecision entry7).1 = .show
      ∧ ((tuned (.slate .offer) (.slate .offer none 0)).viewDecision entry7).1 = .show
      ∧ (areaCell 2 3 true).cell.start = true := by decide +kernel

theorem witness_preview_begins_with_record_and_meter :
    shop.canPreview film = true ∧ shop.meters.length = 8 := by decide +kernel

theorem witness_standing_settings_take_effect_at_once :
    let full := queue (List.replicate 8 (.advance 1 .previewed)) shop
    let t : State := { tuned (.slate .locked) (.cutting 0) with lock := { shop.lock with map := List.replicate 16 8 } }
    let cutting (s : State) : State := { s with composer := t.composer }
    Awake shop ∧ shop.addressed .all = true ∧ targetAccepted .assignRoom (.unit 9) = true
      ∧ (closing shop).store.closing = true ∧ 8 ≤ full.store.queue.length
      ∧ (∀ q ∈ full.store.queue.tail, q.op.isWriteSettings = false)
      ∧ t.composer.output = .cutting 0 ∧ t.tunedEntry = some entry7 ∧ t.composer.decision = some (.slate .locked)
      ∧ ((State.requestSettings { t with composer := { t.composer with cutMode := .immediate } }).viewDecision
          entry7).1 = .slate .locked
      ∧ (cutting (closing shop)).composer.output = .cutting 0 ∧ (cutting (closing shop)).store.closing = true
      ∧ (cutting full).composer.output = .cutting 0 ∧ 8 ≤ (cutting full).store.queue.length := by decide +kernel

theorem witness_write_settings_is_merged_or_queued :
    let holds (n : Nat) : State := queue (List.replicate n (.advance 1 .previewed)) shop
    (∃ q ∈ (queue [.advance 1 .previewed, .writeSettings false none] shop).store.queue.tail,
        q.op.isWriteSettings = true)
      ∧ (closing shop).store.closing = true ∧ shop.store.fault = false ∧ shop.store.closing = false
      ∧ shop.store.awaitingScan = false ∧ shop.store.queue = [] ∧ (holds 7).store.queue ≠ []
      ∧ (holds 7).store.queue.length < 8 ∧ (holds 7).requestSettings.store.queue.length = 8
      ∧ 8 ≤ (holds 8).store.queue.length ∧ (holds 8).requestSettings.store.queue.length = 8
      ∧ (∀ q ∈ (holds 7).store.queue.tail, q.op.isWriteSettings = false)
      ∧ (∀ q ∈ (holds 8).store.queue.tail, q.op.isWriteSettings = false) := by decide

theorem witness_set_ceiling_by_target : Awake shop ∧ shop.addressed .all = true ∧ shop.addressed (.room 5) = true
    ∧ (closing shop).store.closing = true
    ∧ 8 ≤ (queue (List.replicate 8 (.advance 1 .previewed)) shop).store.queue.length := by decide

theorem witness_loads_of_lock_and_prices : Awake shop ∧ shop.addressed .all = true
    ∧ (List.replicate 16 7).length = 16 ∧ (∃ c ∈ List.replicate 16 8, 7 < c) ∧ (∀ c ∈ List.replicate 16 7,
        c ≤ 7) := by
  decide

theorem witness_local_second_counts : Awake shop ∧ shop.notices.hotelTime = some 1000000
    ∧ base.notices.hotelTime = none ∧ (shop.lane 0).response = .pass ∧ (shop.lane 0).watch = .armed
    ∧ shop.composer.channels.length = 48 := by decide

theorem witness_lost_stream_and_expired_key_wait :
    let silent : State := { shop with
      due := [.streamLost 0, .keyWaitExpiry 1], second := 3
      lanes := { lane0 with silence := 4 } :: { lane1 with keyStatus := .keywait 0 3 .a } :: [] }
    silent.powered = true ∧ .streamLost 0 ∈ silent.due ∧ (silent.lane 0).response = .pass
      ∧ (silent.lane 0).watch = .armed ∧ (silent.lane 0).config = some (config 300 .picture none 0 8)
      ∧ 2 ^ (config 300 .picture none 0 8).watchCode ≤ (silent.lane 0).silence
      ∧ .keyWaitExpiry 1 ∈ silent.due ∧ (silent.lane 1).keyStatus = .keywait 0 3 .a
      ∧ 3 ≤ elapsed 0 silent.second := by decide

theorem witness_swap_and_end_change_the_programme :
    let s : State := { shop with due := [.programmeSwap 7, .programmeEnd 7] }
    let ended : Programme := { film with stop := 1000000 }
    s.powered = true ∧ s.entryIndex 7 = some 0 ∧ s.notices.hotelTime = some 1000000 ∧ .programmeSwap 7 ∈ s.due
      ∧ .programmeEnd 7 ∈ s.due
      ∧ ((s.setNotice 0 { current := none, next := some film }).noticeAt 0).next = some film ∧ film.start ≤ 1000000
      ∧ ((s.setNotice 0 { current := some ended, next := none }).noticeAt 0).current = some ended
      ∧ ended.stop ≤ 1000000 ∧ ((s.setNotice 0 { current := some film, next := some film }).noticeAt 0).next = some film
      ∧ (s.noticeAt 0).current.map (·.id) = some 40 := by decide +kernel

theorem witness_timeouts_end_what_waits :
    let t := tuned (.slate .locked) (.cutting 3)
    let refusal : BuyRefusal := { slate := .wait, programme := 40, channel := 7, expiry := 5 }
    let s : State :=
      { t with
        due := [.pinEntryTimeout, .channelEntryTimeout, .cutAllowanceEnd, .refusalExpiry]
        second := 5
        lock := { shop.lock with map := List.replicate 16 8, entry := .rateDigit 0 }
        keypad := { shop.keypad with digits := [7], lastKeySecond := some 3 }
        buying := { shop.buying with refusal := some refusal } }
    s.powered = true ∧ .pinEntryTimeout ∈ s.due ∧ s.lock.entry.lastKey = some 0 ∧ 5 ≤ elapsed 0 s.second
      ∧ .channelEntryTimeout ∈ s.due ∧ s.keypad.digits ≠ [] ∧ s.keypad.lastKeySecond = some 3
      ∧ 2 ≤ elapsed 3 s.second ∧ .cutAllowanceEnd ∈ s.due ∧ s.composer.output = .cutting 3
      ∧ s.tunedEntry = some entry7 ∧ s.composer.decision = some (.slate .locked)
      ∧ (s.viewDecision entry7).1 = .slate .locked ∧ .refusalExpiry ∈ s.due
      ∧ s.buying.refusal = some refusal ∧ refusal.expiry = s.second := by decide +kernel

/-- A meter at its period, with and without a buffered period, and one at its compare value. -/
theorem witness_meter_events_reach_their_owners :
    let m : Meter := { Meter.rental 40 1 700 with count := 700 }
    let p : Meter := { Meter.preview 40 7 1 10 with count := 10 }
    let q : Preview := { programme := 40, channel := 7, record := 1, meter := 1, state := .running }
    let s : State :=
      { shop with
        due := [.compare 4, .extended 3, .terminal 0, .terminal 1, .terminal 2]
        meters := [{ Meter.window .unlock 600 with count := 600 }, p, m, { m with buffered := some 60 },
                   { m with count := 100 }]
        buying := { shop.buying with previews := [q] } }
    s.powered = true ∧ .compare 4 ∈ s.due ∧ (s.meter 4).period ≠ some (s.meter 4).count
      ∧ (s.meter 4).compare1 = some (s.meter 4).count ∧ .extended 3 ∈ s.due
      ∧ (s.meter 3).period = some (s.meter 3).count ∧ (s.meter 3).buffered = some 60
      ∧ (.terminal 0 ∈ s.due ∧ (s.meter 0).period = some (s.meter 0).count ∧ (s.meter 0).buffered = none
          ∧ (s.meter 0).use = .unlock)
      ∧ (.terminal 1 ∈ s.due ∧ (s.meter 1).period = some (s.meter 1).count ∧ (s.meter 1).buffered = none
          ∧ (s.meter 1).use = .preview ∧ s.buying.previews = [] ++ q :: [] ∧ q.meter = 1 ∧ q.state = .running)
      ∧ (.terminal 2 ∈ s.due ∧ (s.meter 2).period = some (s.meter 2).count ∧ (s.meter 2).buffered = none
          ∧ (s.meter 2).use = .rental) := by decide

theorem witness_keypad_bytes_form_frames :
    Awake base ∧ base.keypad.firstByte = none
      ∧ ({ base with keypad := { base.keypad with firstByte := some 0x0D } } : State).keypad.firstByte = some 0x0D
      ∧ ((0x0D : Byte).toNat / 16 + (0x0D : Byte).toNat % 16 + (0x0D : Byte).toNat / 16) % 16 = (0x0D :
          Byte).toNat % 16 := by
  decide

/-- A code that names no key, a held frame that does not repeat the last key, and frames of the lowest and the highest
code behind a RESTART. -/
theorem witness_held_and_unassigned_frames_only_touch : base.powered = true ∧ base.due = [] ∧ 127 ≤ 127 ∧ 17 ≤ 127
    ∧ ¬ ((11 = 11 ∨ 11 = 12) ∧ base.keypad.lastKey = some 11) ∧ (restarted shop).powered = true
    ∧ (restarted shop).due = [] ∧ (restarted shop).keypad.restarted = true ∧ 0 ≤ 127 := by decide

/-- The last digit and the one before it, ENTER with and without digits, and a table of one channel number, stepped in
from it, round from it, and with no channel tuned. -/
theorem witness_digits_enter_and_steps_name_a_channel :
    let s := tuned .show .showing
    let typed : State := { s with keypad := { s.keypad with digits := [0, 0] } }
    let listed (t : State) (n : Nat) : Prop := ∃ e, some e ∈ t.composer.channels ∧ e.number = n
    Awake s ∧ s.lock.entry = .idle ∧ s.composer.decision ≠ some (.slate .pin) ∧ s.keypad.digits.length < 2
      ∧ 2 ≤ typed.keypad.digits.length ∧ typed.keypad.digits ≠ [] ∧ s.keypad.digits = [] ∧ (∀ k, ¬ listed base k)
      ∧ listed s 7 ∧ (∀ k, listed s k → k = 7) ∧ s.composer.tuned = some 7 ∧ shop.composer.tuned = none
      ∧ Nat.ofDigits 10 [0, 0, 7].reverse = 7 ∧ Nat.ofDigits 10 [9, 0, 1].reverse = 901 := by
  refine ⟨by decide, by decide, by decide, by decide, by decide, by decide, by decide, ?_, ⟨entry7, by decide, rfl⟩, ?_,
    by decide⟩
  · rintro k ⟨e, he, -⟩
    exact absurd (List.eq_of_mem_replicate (show some e ∈ List.replicate 48 none from he)) (by simp)
  · rintro k ⟨e, he, rfl⟩
    have h : ∀ x ∈ (tuned .show .showing).composer.channels, x = some entry7 ∨ x = none := by decide
    rcases h _ he with h | h
    · cases h; rfl
    · cases h

theorem witness_rate_and_pin_digits :
    let pin : PinDigits := ⟨1, 2, 3, 4⟩
    let s (e : PinEntry) : State := { shop with lock := { shop.lock with pin := some pin, entry := e, g := 3 } }
    let raised : State := s (.raise 5 [1, 2, 3] 0)
    let t := tuned (.slate .pin) (.slate .pin none 0)
    Awake (s .idle) ∧ (s (.rateDigit 0)).lock.entry = .rateDigit 0 ∧ 3 ≤ (s .idle).lock.g ∧ (s .idle).lock.g < 4
      ∧ shop.lock.pin = none ∧ ¬ ((s .idle).lock.pin = none ∨ ((s .idle).meter 0).use = .lockout)
      ∧ t.lock.entry = .idle ∧ t.composer.decision = some (.slate .pin) ∧ t.composer.tuned = some 7
      ∧ (s (.unlock 7 [1, 2, 3] 0)).lock.entry = .unlock 7 [1, 2, 3] 0 ∧ [1, 2].length < 3 ∧ 3 ≤ [1, 2, 3].length
      ∧ raised.lock.pin.map pinList = some ([1, 2, 3] ++ [4]) ∧ raised.lock.pin.map pinList ≠ some ([1, 2, 3] ++ [5])
      ∧ raised.lock.wrongCount < 2
      ∧ 2 ≤ ({ raised with lock := { raised.lock with wrongCount := 2 } } : State).lock.wrongCount := by decide

theorem witness_cancel_and_lock_keys :
    let s := previewing
    Awake s ∧ s.lock.entry = .idle ∧ s.keypad.digits = [] ∧ s.composer.decision = some .show
      ∧ s.tunedCurrent = some film ∧ (s.runningPreview 40).isSome = true
      ∧ (tuned .show .showing).runningPreview 40 = none ∧ (tuned (.slate .pin) .none).composer.decision ≠ some .show
      ∧ ({ s with lock := { s.lock with entry := .rateDigit 0 } } : State).lock.entry ≠ .idle
      ∧ ({ s with keypad := { s.keypad with digits := [1] } } : State).keypad.digits ≠ [] := by decide +kernel

/-- A day cap, a full table, a record of today and a commit not yet programmed. -/
theorem witness_charge_rule : 0 < ({ shop with buying := { shop.buying with dayCap := 1 } } : State).buying.dayCap
    ∧ Sized shop ∧ (holding bought shop).store.slot 1 = bought ∧ bought.state = .committed
    ∧ (holding bought shop).store.resumed = false ∧ (resuming (holding bought shop)).store.resumed = true
    ∧ bought.folio = some (holding bought shop).store.folio ∧ bought.commitTime = some 999990
    ∧ shop.notices.hotelTime = some 1000000 ∧ buying.buying.commits.map (·.record) = [1]
    ∧ (buying.store.slot 1).committed = false :=
  ⟨by decide, shop_sized, by decide +kernel, by decide, by decide +kernel, by decide +kernel, by decide +kernel,
    by decide, by decide, by decide, by decide +kernel⟩

/-- A BUY acted on from OFFER and from SHOW: not waiting, not closed, within credit; waiting; closed; beyond credit. -/
theorem witness_buy_is_ignored_refused_or_accepted :
    let s := tuned (.slate .offer) (.slate .offer none 0)
    let free : State := { previewing with buying := { previewing.buying with prices := base.buying.prices } }
    Awake s ∧ s.composer.tuned = some 7 ∧ s.current 7 = some film ∧ s.priceOf film = 300
      ∧ s.composer.decision = some (.slate .offer) ∧ s.store.state = .ready ∧ s.store.closing = false
      ∧ s.store.queue.length = 0 ∧ s.buying.billing = true ∧ s.notices.hotelTime = some 1000000
      ∧ s.runningPreview 40 = none ∧ s.freeMeter = some 1
      ∧ s.store.folioTotal + s.pendingCharges + s.chargeNow 300 ≤ s.buying.credit
      ∧ (previewing.runningPreview 40).isSome = true ∧ previewing.composer.decision = some .show
      ∧ previewing.store.state = .ready
      ∧ (queue [.advance 1 .previewed] s).store.state = .busy
      ∧ ({ s with buying := { s.buying with billing := false } } : State).buying.billing = false
      ∧ ({ s with buying := { s.buying with credit := 299 } } : State).buying.credit < s.chargeNow 300
      ∧ free.composer.decision = some .show ∧ free.current 7 = some film ∧ free.priceOf film = 0
      ∧ (free.runningPreview 40).isSome = true ∧ (tuned .show .showing).current 8 = none
      ∧ (tuned (.slate .pin) .none).composer.decision ≠ some (.slate .offer)
      ∧ (tuned (.slate .pin) .none).composer.decision ≠ some .show := by decide +kernel

/-! ### The output and the slates -/

theorem witness_output_slot_by_output_state :
    let s := tuned .show .showing
    let filled (o : OutputState) : State :=
      { tuned .show o with lanes := { lane0 with area := [areaCell 1 1 false, areaCell 2 3 true] }
                                      :: { lane1 with response := .pass, area := [areaCell 9 2 false] } :: [] }
    let cut (area : List AreaCell) : State :=
      { tuned (.slate .locked) (.cutting 0) with lanes := { lane0 with area := area } :: lane1 :: [] }
    (Awake s ∧ base.composer.output = .none ∧ (slated (some 1)).composer.output = .slate .offer (some 1) 15
      ∧ (slated none).slatePosition .offer 1 = .ready header (List.replicate 120 1)
      ∧ (slated none).slatePosition .offer 3 = .ready header (List.replicate 120 2)
      ∧ (slated none).slatePosition .offer 0 = .empty ∧ s.tunedEntry = some entry7 ∧ s.composer.output = .showing
      ∧ (cut lane0.area).composer.output = .cutting 0 ∧ (cut lane0.area).composer.decision = some (.slate .locked)
      ∧ ((filled .showing).lane 0).area.head? = some (areaCell 1 1 false)
      ∧ ((filled .showing).lane 1).area.head? = some (areaCell 9 2 false)
      ∧ (filled .waitingStart).composer.output = .waitingStart
      ∧ ((filled .waitingStart).lane 0).area = [areaCell 1 1 false] ++ areaCell 2 3 true :: []
      ∧ (areaCell 2 3 true).cell.start = true ∧ ((tuned .show .waitingStart).lane 1).response ≠ .pass)
      ∧ StartMarkNext (cut [areaCell 2 3 true]) entry7 ∧ ¬ StartMarkNext (cut [areaCell 2 3 false]) entry7 :=
  ⟨by decide +kernel, (State.cutReached_iff _ _ 0 rfl).1 (by decide),
    (State.cutReached_iff _ _ 0 rfl).not.1 (by decide)⟩

/-- A priced and a free programme, a preview's meter and none, each state of PIN entry, a tuned channel and none; and
fills that stand apart in a position's payload. -/
theorem witness_slate_cell_carries_its_fill_fields :
    let free : State := { tuned .show .showing with buying := base.buying }
    let entry (e : PinEntry) : State := { shop with lock := { shop.lock with entry := e } }
    let m : Meter := Meter.preview 40 7 1 10
    previewing.tunedCurrent = some film ∧ previewing.priceOf film ≠ 0
      ∧ (previewing.priceEntry film.priceClass).rentalMinutes ≤ 4320 ∧ free.tunedCurrent = some film
      ∧ free.priceOf film = 0
      ∧ (previewing.meters = [Meter.free] ++ m :: List.replicate 6 Meter.free ∧ m.use = .preview
          ∧ m.programme = some film.id ∧ Meter.free.use ≠ .preview ∧ m.period = some 10)
      ∧ (∀ m ∈ shop.meters, m.use ≠ .preview) ∧ previewing.buying.credit ≤ 1000000
      ∧ (entry (.unlock 7 [1, 2] 0)).lock.entry = .unlock 7 [1, 2] 0
      ∧ (entry (.raise 5 [1, 2, 3] 0)).lock.entry = .raise 5 [1, 2, 3] 0 ∧ (entry .idle).lock.entry = .idle
      ∧ (entry (.rateDigit 0)).lock.entry = .rateDigit 0 ∧ previewing.composer.tuned = some 7
      ∧ ({ shop with composer := { shop.composer with tuned := some 999 } } : State).composer.tuned = some 999
      ∧ shop.composer.tuned = none ∧ (List.replicate 120 (0 : Byte)).length = 120 ∧ header.length ≤ 120
      ∧ (∀ f ∈ header.fills, f.offset + 8 ≤ header.length ∧ (shop.fillText f.kind).length ≤ 8)
      ∧ header.fills.Pairwise (fun f g => f.offset + 8 ≤ g.offset ∨ g.offset + 8 ≤ f.offset) := by decide +kernel

/-- Header sections at the edges of their ranges, fills that just do and do not overlap, and sections that complete a
cell. -/
theorem witness_slate_sections_build_a_position :
    let f : SlateHeaderFields :=
        { fields0 with stream := 4079, startMark := 1, length := 120, fillCount := 2, offset1 := 104,
                                                offset2 := 112, kind1 := 5 }
    let b (p : SlatePosition) : State :=
        { shop with composer := { shop.composer with slates := shop.composer.slates.set 35 p } }
    let h : SlateHeader := { header with fills := [] }
    Meant shop .all .loadSlate ∧ (8 ≤ 8 ∧ 3 ≤ 3) ∧ f.stream ≤ 4079 ∧ f.startMark ≤ 1 ∧ f.length ≤ 120
        ∧ f.fillCount ≤ 2
      ∧ (f.kind1 ≤ 5 ∧ f.offset1 + 8 ≤ f.length) ∧ (f.kind2 ≤ 5 ∧ f.offset2 + 8 ≤ f.length)
      ∧ ¬ f.offset2 < f.offset1 + 8 ∧ (fillsOf f).isSome = true ∧ 111 < f.offset1 + 8 ∧ f.offset1 < 111 + 8
      ∧ shop.composer.slates.getD (4 * 8 + 3) .empty = .empty
      ∧ (b (.building h (some []) (some []) none)).composer.slates.getD (4 * 8 + 3) .empty
          = .building h (some []) (some []) none := by decide +kernel

/-! ### Beacons, notices, the folio -/

theorem witness_beacon_sets_hotel_time : Awake base ∧ base.notices.restorationPending = true
    ∧ ({ base with notices := { base.notices with restorationPending := false } } :
        State).notices.restorationPending = false
    ∧ base.store.awaitingScan = false ∧ base.store.closing = false ∧ (closing base).store.closing = true
    ∧ ({ base with store := { base.store with awaitingScan := true } } : State).store.awaitingScan = true := by decide

/-- One record of one programme is restored to meter 1, and meter 2 is not given. -/
theorem witness_restoration_gives_meters_to_rentals :
    let s := holding bought shop
    s.notices.hotelTime = some 1000000 ∧ s.store.closing = false ∧ s.meters.length = 8
      ∧ ((List.range' 1 7).all fun i => decide ((s.meter i).use = .free ∧ (s.meter i).hold = none)) = true
      ∧ (∀ x ∈ s.store.records, x.1.programme ≠ none) ∧ s.store.records.length = 1
      ∧ s.restoreRentals.buying.rentals.map (·.meter) = [1] := by decide +kernel

theorem witness_notices_are_checked_and_taken :
    let f : NoticeFields := { channel := 7, programme := 41, rating := 0, priceClass := 1, start := 5, stop := 6 }
    Awake shop ∧ shop.entryIndex 7 = some 0 ∧ shop.entryIndex 8 = none ∧ (shop.noticeAt 0).current.map (·.id) = some 40
      ∧ f.channel.toNat = 7 ∧ f.programme.toNat = 41 ∧ 5 < f.stop.toNat
      ∧ ({ f with programme := 40 } : NoticeFields).programme.toNat = 40
      ∧ ({ f with programme := 0 } : NoticeFields).programme.toNat = 0
      ∧ ({ f with stop := 5 } : NoticeFields).stop.toNat ≤ f.start.toNat := by decide +kernel

/-- A range that finds nothing is told by what idleRange tests. -/
theorem idle_of {f : FolioStore} {op : StoreOp} (h : f.idleRange op = true) : IdleRange f op :=
  (FolioStore.idleRange_iff f op).1 h

theorem not_idle_of {f : FolioStore} {op : StoreOp} (h : f.idleRange op = false) : ¬ IdleRange f op := fun x => by
  rw [(FolioStore.idleRange_iff f op).2 x] at h
  cases h

theorem witness_ranges_with_and_without_records :
    shop.store.queue = [] ∧ IdleRange shop.store (.advanceRange .settled (List.range' 1 256))
      ∧ ¬ IdleRange (holding { bought with reported := true } shop).store (.advanceRange .settled (List.range' 1 1))
      ∧ IdleRange (holding { bought with reported := true } shop).store (.advanceRange .reported [1])
      ∧ ¬ IdleRange (holding bought shop).store (.advanceRange .reported [1]) :=
  ⟨by decide, idle_of (by decide +kernel), not_idle_of (by decide +kernel), idle_of (by decide +kernel),
    not_idle_of (by decide +kernel)⟩

theorem witness_extend_rental_and_settle :
    let s := renting .none
    Meant s .all .settle ∧ 1 ≤ 1 ∧ 256 ≤ 256 ∧ 4320 ≤ 4320 ∧ (∃ r ∈ s.buying.rentals, r.record = 1)
      ∧ (∀ r ∈ s.buying.rentals, r.record = 1 → r.extension = .none)
      ∧ (∀ r ∈ (renting .written).buying.rentals, r.record = 1 → r.extension ≠ .none)
      ∧ s.store.fault = false ∧ s.store.queue.length < 8 ∧ s.store.folio = 1 ∧ (closing s).store.closing = true
      ∧ 8 ≤ (queue (List.replicate 8 (.advance 1 .previewed)) s).store.queue.length := by decide +kernel

theorem witness_close_folio_checks_and_effect :
    let s := holding bought shop
    let marked : State := { shop with store := { shop.store with page := { shop.store.page with closeMark := true } } }
    Meant s .all .closeFolio ∧ s.store.folio = 1 ∧ s.store.closing = false ∧ s.store.awaitingScan = false
      ∧ (∃ x ∈ s.store.records, x.1.state ≠ .settled) ∧ shop.store.records = [] ∧ shop.store.queue = []
      ∧ shop.store.page.closeMark = false ∧ marked.store.page.closeMark = true
      ∧ ([0, 1, 2, 3].dropWhile fun k => (marked.store.sector k).whollyErased) = []
      ∧ ([0, 1, 2, 3].dropWhile fun k => ((holding bought marked).store.sector k).whollyErased) = 0 :: [1, 2, 3]
      ∧ (queue [.advanceRange .settled [1]] shop).store.queue = waiting (.advanceRange .settled [1]) :: [] := by
  decide +kernel

theorem witness_polls_build_their_frames :
    let s := holding bought shop
    let few (n : Nat) : State :=
        { s with reply := { s.reply with queue := List.replicate n (.status (s.statusFrame 0)) } }
    Meant s (.room 5) .poll ∧ (1 ≤ 256 ∧ 256 ≤ 256 ∧ 1 ≤ 12 ∧ 12 ≤ 12) ∧ 16 - (few 16).reply.queue.length = 0
      ∧ 16 - (few 15).reply.queue.length = 1 ∧ 0 < 16 - s.reply.queue.length ∧ (closing s).store.closing = true
      ∧ ((s.store.records.filter fun x => decide (1 ≤ x.2) && x.1.state != .opened).take 1).length = 1
      ∧ ((s.store.records.filter fun x => decide (2 ≤ x.2) && x.1.state != .opened).take 1) = []
      ∧ s.store.fault = false ∧ s.store.queue.length < 8 := by decide +kernel

/-- A status frame, a record frame, and a lane frame of a lane loaded and of one that was never. -/
theorem witness_frames_leave_in_order_with_their_check :
    let s := holding bought shop
    let sends (f : ReplyFrame) : State := base.enqueue [f]
    Awake base ∧ base.reply.queue = [] ∧ (sends (.status (base.statusFrame 0))).reply.queue.length = 1
      ∧ (sends (.record (s.recordFrame (bought, 1)))).reply.queue = .record (s.recordFrame (bought, 1)) :: []
      ∧ (s.laneFrame 0).config ≠ none ∧ (s.laneFrame 23).config = none := by decide +kernel

theorem witness_clear_notices_and_set_mask : Awake base ∧ base.addressed .all = true := by decide

/-! ### Store operations -/

theorem witness_completed_operation_programs_its_content :
    let op := StoreOp.advance 1 .previewed
    let extended := holding { bought with extension := some 2 } shop
    Awake (queue [op] shop) ∧ Sized shop ∧ (queue [op] shop).store.queue = waiting op :: []
      ∧ (∀ x ∈ [waiting op], x.op.kind ≠ .eraseSector) ∧ shop.store.closing = false
      ∧ shop.store.slot 256 = Slot.erased ∧ shop.store.slot 1 = Slot.erased
      ∧ ((holding opened shop).store.slot 1).opened = true ∧ ((holding opened shop).store.slot 1).previewed = false
      ∧ ((holding opened shop).store.slot 1).committed = false ∧ ((holding opened shop).store.slot 1).price = none
      ∧ ((holding previewed shop).store.slot 1).previewed = true
      ∧ ((holding previewed shop).store.slot 1).committed = false
      ∧ ((holding bought shop).store.slot 1).committed = true ∧ ((holding bought shop).store.slot 1).previewed = false
      ∧ ((holding bought shop).store.slot 1).folio = some shop.store.folio
      ∧ ((holding bought shop).store.slot 1).extension = none ∧ (extended.store.slot 1).extension ≠ none
      ∧ ({ op := .writeExtension 1 2, retried := true, wrote := true } : QueuedOp).wrote = true :=
  ⟨by decide, shop_sized, by decide +kernel⟩

theorem witness_close_sequence_ends_the_folio :
    let s (ops : List StoreOp) := closing (queue ops shop)
    let last := StoreOp.writeSettings true none
    Awake (s []) ∧ (s [.closeMark, .eraseSector 0]).store.queue = waiting .closeMark :: [(StoreOp.eraseSector 0).queued]
      ∧ (s [.eraseSector 2, .eraseSector 3]).store.queue = waiting (.eraseSector 2) :: [(StoreOp.eraseSector 3).queued]
      ∧ (s [.eraseSector 3, last]).store.queue = waiting (.eraseSector 3) :: [last.queued]
      ∧ (s []).store.closing = true ∧ (s []).store.awaitingScan = false ∧ (s []).buying.marking = []
      ∧ (s []).store.scanList = []
      ∧ (s [.writeSettings true (some (2, Standing.initial))]).store.queue
          = waiting (.writeSettings true (some (2, Standing.initial))) :: [] := by decide

/-- A commit and an extension in flight; an operation whose completion leaves room for the marking list and the scan
list, with no range, and with ranges that find nothing, ahead of the next operation; a store that awaits its scan; and a
close that finds the operation in flight, its mark erased and programmed. -/
theorem witness_completion_reaches_its_requester :
    let fields : CommitFields := { price := 300, tax := 0, charge := 300, time := 1000000 }
    let c : Commit := { programme := 40, record := 1, meter := 1, charge := 300, time := 1000000, kind := .fromPreview }
    let q := waiting (.advance 1 (.committed fields))
    let extending := queue [.writeExtension 1 2] (renting .requested)
    let idle := StoreOp.advanceRange .settled [1]
    let f := (holding opened shop).store.programAll (.advance 1 .previewed)
    let marked (s : State) : State := { closing s with store := { (closing s).store with
      page := { s.store.page with closeMark := true } } }
    let lists : State := { shop with
      buying := { shop.buying with marking := [2, 3] }, store := { shop.store with scanList := [4, 5] } }
    (Awake buying ∧ buying.store.queue = q :: [] ∧ buying.store.contentFails q = false
      ∧ buying.store.awaitingScan = false ∧ q.op.isEnding = false ∧ q.op.commitsRecord = some 1
      ∧ buying.buying.commits = [] ++ c :: [] ∧ c.record = 1 ∧ (buying.meter c.meter).hold = some c.programme
      ∧ buying.store.closing = false ∧ buying.store.fault = false
      ∧ ({ buying with store := { buying.store with awaitingScan := true } } : State).store.awaitingScan = true
      ∧ Awake extending ∧ extending.buying.rentals.map (·.extension) = [.requested]
      ∧ extending.store.contentFails (waiting (.writeExtension 1 2)) = false
      ∧ (StoreOp.advance 1 .previewed).commitsRecord = none ∧ lists.buying.marking ≠ [] ∧ lists.store.scanList ≠ []
      ∧ shop.buying.marking = [] ∧ (closing buying).store.closing = true ∧ (closing buying).store.queue = q :: []
      ∧ q.op.ofClose = false ∧ (closing buying).store.contentFails q = false
      ∧ (closing buying).store.page.closeMark = false
      ∧ (marked buying).store.page.closeMark = true
      ∧ ([0, 1, 2, 3].dropWhile fun k => ((buying.store.programAll q.op).sector k).whollyErased) = [0, 1, 2, 3])
      ∧ IdleRange f idle ∧ ¬ IdleRange f (.advance 2 .previewed) :=
  ⟨by decide +kernel, idle_of (by decide +kernel), not_idle_of (by decide)⟩

/-- Operations that what they find bars, or has done; a first FAIL that leaves something, and one that leaves a range
nothing to find; a second FAIL, outside a close and in one, with the close mark erased and programmed, and while a
scan is awaited. -/
theorem witness_failed_operation_is_retried_then_faults :
    let op := StoreOp.advance 1 (.committed { price := 300, tax := 0, charge := 300, time := 1000000 })
    let again : State := { buying with store := { buying.store with queue := [{ op := op, retried := true }] } }
    let awaits : State := { again with store := { again.store with awaitingScan := true } }
    let marked : State := { closing again with store := { (closing again).store with
      page := { again.store.page with closeMark := true } } }
    let range := StoreOp.advanceRange .reported [1]
    (Awake buying ∧ Sized buying ∧ buying.store.queue = waiting op :: [] ∧ (waiting op).retried = false
      ∧ again.store.queue = { op := op, retried := true } :: [] ∧ again.store.awaitingScan = false
      ∧ awaits.store.awaitingScan = true ∧ (shop.store.slot 1).opened = false
      ∧ ((holding bought shop).store.slot 1).committed = true ∧ ((holding previewed shop).store.slot 1).previewed = true
      ∧ (buying.store.slot 1).opened = true ∧ (buying.store.slot 1).committed = false
      ∧ (buying.store.slot 1).previewed = false
      ∧ ((holding { bought with extension := some 2 } shop).store.slot 1).extension ≠ none
      ∧ (waiting (.writeExtension 1 2)).wrote = false
      ∧ ((holding bought shop).store.slot 1).extension = none
      ∧ (closing again).store.closing = true ∧ op.ofClose = false ∧ again.store.closing = false
      ∧ (again.store.programSteps op 4).page.closeMark = false ∧ (marked.store.programSteps op 4).page.closeMark = true)
      ∧ ¬ IdleRange buying.store op ∧ ¬ IdleRange (buying.store.programSteps op 5) op
      ∧ ¬ IdleRange (holding bought shop).store range ∧ IdleRange ((holding bought shop).store.programSteps range 1) range
      ∧ IdleRange shop.store range :=
  ⟨by decide +kernel, not_idle_of (by decide), not_idle_of (by decide), not_idle_of (by decide +kernel),
    idle_of (by decide +kernel), idle_of (by decide +kernel)⟩

/-! ### Invariants -/

theorem witness_attention_follows_every_step : AttentionFollows shop := by decide

theorem witness_every_step_keeps_the_bounds : Sized shop ∧ QueueBounded shop ∧ CeilingHeld shop ∧ MetersServe shop
    ∧ AreasBounded base :=
  ⟨shop_sized, by decide, by decide, by decide, base_bounded⟩

theorem witness_records_only_advance : NoErase (holding bought shop) := by decide +kernel

/-! ## Single steps from the manual's worked cases and tables -/

/-- R30's worked case: scrambled 30 and 200 under K = 65,538, s = 300, q = 5 are 182 and 120. -/
theorem test_keystream_worked_case :
    ((cell 300 5 .phaseA false).descrambled 65538).payload.take 2 = [182, 120] := by decide +kernel

/-- R30's x0 of that case. -/
theorem test_keystream_start : keystreamStart 65538 300 5 = 32064 := by decide

/-- R172: 1,682 cents and 95 cents. -/
theorem test_money_text : moneyText 1682 = [0x31, 0x36, 0x2E, 0x38, 0x32] ∧ moneyText 95 = [0x30, 0x2E, 0x39,
    0x35] := by
  decide

/-- R173: the largest rental, 4,320 minutes, is 72.0 hours. -/
theorem test_hours_text : hoursText 4320 = [0x37, 0x32, 0x2E, 0x30] := by decide

/-- R100: price 65,535 at rate 2,500 has tax 16,384 and a charge clamped to 81,918. -/
theorem test_charge_clamped : taxOf 65535 2500 = 16384 ∧ chargeOf 65535 2500 0 0 = 81918 := by decide

/-- R100 step 3: a day cap below the day charges leaves a charge of 0. -/
theorem test_charge_under_day_cap : chargeOf 300 0 500 600 = 0 ∧ chargeOf 300 0 500 400 = 100 := by decide

/-- R46: before the first day start the hotel day is −1. -/
theorem test_hotel_day : hotelDay 6 21599 = -1 ∧ hotelDay 6 21600 = 0 := by decide

/-- R4: a cell on a lane's stream is accepted; its sequence is expected next. -/
theorem test_cell_received :
    ((after (.cellReceived (cell 300 15 .clear true).bytes) shop).lane 0).expected = some 0 := by decide +kernel

/-- R14: a scrambled cell on a clear lane. -/
theorem test_scrambled_on_clear :
    ((after (.cellReceived (cell 300 15 .phaseA true).bytes) shop).lane 0).response = .block := by decide +kernel

/-- R2: the third good header. -/
theorem test_sync_search :
    (after (.syncSearch 0 (cell 4095 0 .clear false).bytes)
      { base with intake := { base.intake with goodRun := 2 } }).intake.sync = .locked := by decide +kernel

/-- R41, R42: a local second counts the local second count and hotel time. -/
theorem test_local_second : (after .localSecond shop).second = 1
    ∧ (after .localSecond shop).notices.hotelTime = some 1000001 := by decide +kernel

/-- R110, R112: a preview buy is accepted and its ADVANCE is in flight. -/
theorem test_buy_preview : (after (.buy false) previewing).buying.commits.length = 1
    ∧ (after (.buy false) previewing).store.state = .busy := by decide +kernel

/-- R111: a BUY while the store is BUSY is refused WAIT until the count reaches 5. -/
theorem test_buy_refused_wait :
    (after (.buy false) (queue [.advance 9 .previewed] (tuned (.slate .offer) (.slate .offer none 0)))).buying.refusal
      = some { slate := .wait, programme := 40, channel := 7, expiry := 5 } := by decide +kernel

/-- R114: the commit completes, the rental begins on the held meter. -/
theorem test_advance_completes : ((after (.advanceCompletes .ok) buying).meter 1).use = .rental
    ∧ (after (.advanceCompletes .ok) buying).buying.rentals.map (·.endTime) = [1000120] := by decide +kernel

/-- R135: cut before the committed mark, the record is no purchase. -/
theorem test_power_removed : ((after (.powerRemoved 4) buying).store.slot 1).committed = false
    ∧ ((after (.powerRemoved 5) buying).store.slot 1).committed = true := by decide +kernel

/-- R117, R143: a purchase that ends in 110 seconds is restored for 110 seconds. -/
theorem test_time_beacon :
    ((after (.timeBeacon 1000000) (holding bought { base with meters := base.meters })).meter 1).period =
        some 110 := by
  decide +kernel

/-- R120: an extension joins the queue. -/
theorem test_extend_rental : (after (.extendRental .all 1 4320) (renting .none)).store.queue.length = 1 :=
    by decide +kernel

/-- R121: the extension's minutes are buffered. -/
theorem test_write_extension_completes :
    ((after (.writeExtensionCompletes .ok)
        (queue [.writeExtension 1 2] (renting .requested))).meter 1).buffered = some 120 := by
  decide +kernel

/-- R139: an unsettled folio is not closed without force. -/
theorem test_close_folio_unsettled :
    (after (.closeFolio .all 1 0) (holding bought shop)).management.lastRefusal = some (.closeFolio, .state) := by
  decide +kernel

/-- R140: a forced close takes the PIN, the lists and the meters, and programs the close mark first. -/
theorem test_close_folio_forced :
    (after (.closeFolio .all 1 1) (renting .none)).store.queue.map (·.op.kind)
      = [.closeMark, .eraseSector, .eraseSector, .eraseSector, .eraseSector, .writeSettings] := by decide +kernel

/-- R171: above position 1 the next READY position is 3, and after it the loop returns to 1; the sequence count wraps.
-/
theorem test_output_slot_slate :
    (after .outputSlot (slated (some 1))).composer.output = .slate .offer (some 3) 0
      ∧ (after .outputSlot (slated (some 3))).composer.output = .slate .offer (some 1) 0 := by decide +kernel

/-- R7 check 1: a lane number outside 0..23. -/
theorem test_load_lane_range :
    (after (.loadLane .all 24 0 0 0 none 0 1 0) base).management.lastRefusal = some (.loadLane, .range) :=
        by decide +kernel

/-- R9: a lane in BLOCK does not pass at once. -/
theorem test_set_lane_response :
    (after (.setLaneResponse .all 0 2) (base.setLane 0 { lane0 with response := .block })).management.lastRefusal
      = some (.setLaneResponse, .state) := by decide +kernel

/-- R70: four digits that match open the unlock window for the unlock minutes. -/
theorem test_digit_unlock :
    ((after (.digit 4 false) { shop with lock := { shop.lock with pin := some ⟨1, 2, 3, 4⟩,
                                                                  entry := .unlock 7 [1, 2, 3] 0 } }).meter 0).period
      = some 3600 := by decide +kernel

/-- R191: a POLL RECORDS asks for the marking of the record it lists. -/
theorem test_poll_records : (after (.pollRecords (.room 5) 1 1) (holding bought shop)).reply.queue.length = 2
    ∧ (after (.pollRecords (.room 5) 1 1) (holding bought shop)).store.queue.length = 1 := by decide +kernel

/-- R131: an APPEND of a direct buy leaves a COMMITTED record. -/
theorem test_append_completes :
    let r : NewRecord := { folio := 1, number := 1, programme := 40, channel := 7, priceClass := 1, minutes := 2,
                           commit := some { price := 300, tax := 30, charge := 330, time := 1000000 } }
    ((after (.appendCompletes .ok) (queue [.append r] shop)).store.slot 1).state = .committed
      ∧ (after (.appendCompletes .ok) (queue [.append r] shop)).store.folioTotal = 330 := by decide +kernel

/-- R132: report marking of a COMMITTED record. -/
theorem test_advance_range_completes :
    ((after (.advanceRangeCompletes .ok)
        (queue [.advanceRange .reported [1]] (holding bought shop))).store.slot 1).state
      = .reported := by decide +kernel

/-- R140: the ending write begins folio 2. -/
theorem test_write_settings_completes :
    (after (.writeSettingsCompletes .ok)
      (closing (queue [.writeSettings true (some (2, Standing.initial))] shop))).store.folio = 2 := by decide +kernel

/-- R134: a second FAIL makes the store FAULTED. -/
theorem test_second_fail_faults :
    (after (.closeMarkCompletes (.fail 0))
      { shop with store := { shop.store with queue := [{ op := .closeMark, retried := true }] } }).store.state =
          .faulted := by
  decide +kernel

/-- R138: power-on of an erased store begins folio 1 with a WRITE SETTINGS. -/
theorem test_power_on : (after .powerOn base).store.queue.map (·.op.kind) = [.writeSettings]
    ∧ (after .powerOn base).reply.flags = 1 := by decide +kernel

/-- R51: a CURRENT notice of the next programme drops the next record. -/
theorem test_current_notice :
    (after (.currentNotice { channel := 7, programme := 41, rating := 0, priceClass := 1, start := 5, stop := 6 })
      (shop.setNotice 0 { current := some film, next := some { film with id := 41 } })).notices.entries.head?
      = some { current := some { id := 41, rating := 0, priceClass := 1, start := 5, stop := 6 }, next := none } := by
  decide +kernel

/-- R131: an ADVANCE whose record holds its target completes OK, a FAIL commanded for it too. -/
theorem test_advance_holds_its_target :
    (after (.advanceCompletes (.fail 0)) (queue [.advance 1 .previewed] (holding previewed shop))).store.state = .ready := by
  decide +kernel

/-- R132, R193: a range that finds nothing to settle completes OK at once. -/
theorem test_settle_nothing : (after (.settle .all 1 256) shop).store.state = .ready := by decide +kernel

/-- R133: the retry of a WRITE EXTENSION into a field written before it FAILs too. -/
theorem test_write_extension_written_before :
    (after (.writeExtensionCompletes .ok)
      { holding { bought with extension := some 2 } shop with store :=
        { (holding { bought with extension := some 2 } shop).store with
          queue := [{ op := .writeExtension 1 2, retried := true }] } }).store.state = .faulted := by decide +kernel

/-- R135, R142: an erase that was cut off has not erased its sector. -/
theorem test_erase_cut_off :
    let s : State := closing (queue [.eraseSector 3, .writeSettings true none]
      { shop with store := { shop.store with sectors := shop.store.sectors.set 3 Sector.voided } })
    ((after (.powerRemoved 1) s).store.sector 3).whollyErased = false := by decide +kernel

/-- R142, R127: from the scan that resumes a close on, no record counts; but a sector is as it was until its own ERASE
starts, and power applied once more, its page still without a folio number, reads the record's folio (R138). -/
theorem test_resumed_close_keeps_unerased_sectors :
    let r : Slot := { bought with folio := some 3 }
    let s := resuming { shop with store := (shop.store.onSlot 1 fun _ => r).onSlot 65 fun _ => r }
    s.store.folio = 3 ∧ s.store.records = [] ∧ s.store.queue.map (·.op)
        = [.eraseSector 0, .eraseSector 1, .writeSettings true none]
      ∧ s.store.sector 0 = Sector.voided ∧ s.store.slot 65 = r ∧ s.powerOn.store.folio = 3 := by decide +kernel

/-- R186: a digit that arrives together with a RESTART taken first is only the last key; the next begins an entry. -/
theorem test_digit_behind_restart :
    let s := after (.digit 7 false) (restarted shop)
    s.keypad.digits = [] ∧ s.keypad.lastKey = some 7 ∧ (after (.digit 7 false) s).keypad.digits = [7] := by
  decide +kernel

/-- R197: the null cell's eight header bytes. -/
theorem test_null_cell_header : Cell.null.bytes.take 8 = [0xB8, 0xFF, 0xF0, 0, 0, 0, 0, 0xA7] := by decide +kernel

end Sys2Proof.Tests
end

section
/-!
SUPPORT. The bounds of O58 as one relation between two states, reflexive and transitive, and that each shared operation
of a block stands in it. A bound is kept on its own: none of them needs another.
-/

namespace Sys2Proof.Machine

/-! ## The relation -/

/-- Each bound that s meets, t meets: the tables' sizes, the lanes' areas, the ceilings, the meters' service, the
store's sectors and its queue (R7, R22, R61, R78, R79, R129). -/
structure BoundsKept (s t : State) : Prop where
  lanes : s.lanes.length = 24 → t.lanes.length = 24
  areas : AreasBounded s → AreasBounded t
  keys : s.keys.length = 16 → t.keys.length = 16
  entries : s.notices.entries.length = 48 → t.notices.entries.length = 48
  map : s.lock.map.length = 16 → t.lock.map.length = 16
  ceiling : CeilingHeld s → CeilingHeld t
  meters : s.meters.length = 8 → t.meters.length = 8
  service : MetersServe s → MetersServe t
  prices : s.buying.prices.length = 16 → t.buying.prices.length = 16
  channels : s.composer.channels.length = 48 → t.composer.channels.length = 48
  slates : s.composer.slates.length = 36 → t.composer.slates.length = 36
  whole : s.store.Whole → t.store.Whole
  queue : QueueBounded s → QueueBounded t

theorem BoundsKept.refl (s : State) : BoundsKept s s :=
  ⟨id, id, id, id, id, id, id, id, id, id, id, id, id⟩

theorem BoundsKept.trans {s t u : State} (h : BoundsKept s t) (k : BoundsKept t u) : BoundsKept s u :=
  ⟨k.lanes ∘ h.lanes, k.areas ∘ h.areas, k.keys ∘ h.keys, k.entries ∘ h.entries, k.map ∘ h.map, k.ceiling ∘ h.ceiling,
    k.meters ∘ h.meters, k.service ∘ h.service, k.prices ∘ h.prices, k.channels ∘ h.channels, k.slates ∘ h.slates,
    k.whole ∘ h.whole, k.queue ∘ h.queue⟩

theorem BoundsKept.sized {s t : State} (h : BoundsKept s t) : Sized s → Sized t := by
  rintro ⟨lanes, keys, entries, map, meters, prices, channels, slates, sectors, slots⟩
  obtain ⟨sectors', slots'⟩ := h.whole ⟨sectors, slots⟩
  exact ⟨h.lanes lanes, h.keys keys, h.entries entries, h.map map, h.meters meters, h.prices prices,
    h.channels channels, h.slates slates, sectors', slots'⟩

/-- Steps one after another, each within the bounds. -/
theorem BoundsKept.foldl {α : Type} {f : State → α → State} (hf : ∀ s a, BoundsKept s (f s a)) (as : List α)
    (s : State) : BoundsKept s (as.foldl f s) := by
  induction as generalizing s with
  | nil => exact .refl s
  | cons a as ih => exact (hf s a).trans (ih (f s a))

/-! ## Operations of a block that no bound speaks of -/

theorem State.raise_kept (f : NoticeFlag) (s : State) : BoundsKept s (s.raise f) := { BoundsKept.refl s with }

theorem State.refuse_kept (k : CommandKind) (r : Reason) (s : State) : BoundsKept s (s.refuse k r) :=
  { BoundsKept.refl s with }

theorem State.clearRefusal_kept (s : State) : BoundsKept s s.clearRefusal := { BoundsKept.refl s with }

theorem State.dropPreview_kept (p : Nat) (s : State) : BoundsKept s (s.dropPreview p) := { BoundsKept.refl s with }

theorem State.dropBought_kept (c : Commit) (s : State) : BoundsKept s (s.dropBought c) := by
  unfold State.dropBought
  cases c.kind with
  | fromPreview => exact s.dropPreview_kept _
  | direct => exact .refl s

theorem State.pinIdle_kept (s : State) : BoundsKept s s.pinIdle := { BoundsKept.refl s with }

theorem State.endEntry_kept (s : State) : BoundsKept s s.endEntry := { BoundsKept.refl s with }

theorem State.endStaleUnlock_kept (s : State) : BoundsKept s s.endStaleUnlock := by
  unfold State.endStaleUnlock
  split
  · split
    · exact .refl s
    · exact s.pinIdle_kept
  · exact .refl s

theorem State.beginSlate_kept (s : State) : BoundsKept s s.beginSlate := by
  unfold State.beginSlate
  split
  · exact { BoundsKept.refl s with }
  · exact .refl s

/-- A composer with the channel table and the slates it had. -/
theorem State.composer_kept (s : State) {c : Composer} (hc : c.channels = s.composer.channels)
    (hs : c.slates = s.composer.slates) : BoundsKept s { s with composer := c } :=
  { BoundsKept.refl s with channels := fun h => hc ▸ h, slates := fun h => hs ▸ h }

/-! ## Lanes -/

/-- A lane with no more cells than before stays within its area. -/
theorem Lane.bounded_of_shrunk {l l' : Lane} (hc : l'.config = l.config) (ha : l'.area.length ≤ l.area.length)
    (h : Lane.bounded l) : Lane.bounded l' := by
  unfold Lane.bounded at *
  rw [hc]
  cases hl : l.config with
  | none =>
    simp only [hl] at h ⊢
    simpa [h] using ha
  | some c =>
    simp only [hl] at h ⊢
    omega

/-- A full area drops its oldest cell before it takes another (R22). -/
theorem Lane.place_bounded {l : Lane} (c : AreaCell) (h : Lane.bounded l) : Lane.bounded (l.place c) := by
  unfold Lane.place
  cases hl : l.config with
  | none => simpa [hl] using h
  | some cfg =>
    have hb : 1 ≤ cfg.blockCount ∧ cfg.blockCount ≤ 16 ∧ l.area.length ≤ cfg.blockCount := by
      simpa only [Lane.bounded, hl] using h
    dsimp only
    split
    · have hlen : (l.area.drop 1 ++ [c]).length ≤ cfg.blockCount := by simp; omega
      simpa only [Lane.bounded, hl] using ⟨hb.1, hb.2.1, hlen⟩
    · have hlen : (l.area ++ [c]).length ≤ cfg.blockCount := by simp; omega
      simpa only [Lane.bounded, hl] using ⟨hb.1, hb.2.1, hlen⟩

theorem Lane.placeIf_bounded {l : Lane} (tuned : Bool) (c : AreaCell) (h : Lane.bounded l) :
    Lane.bounded (l.placeIf tuned c) := by
  cases tuned with
  | true => exact l.place_bounded c h
  | false => exact h

theorem Lane.drained_bounded {l : Lane} (h : Lane.bounded l) : Lane.bounded l.drained := by
  rw [Lane.drained_eq]
  exact Lane.bounded_of_shrunk (l := l) rfl l.undiscarded_suffix.length_le h

theorem Lane.untuned_bounded {l : Lane} (h : Lane.bounded l) : Lane.bounded l.untuned :=
  Lane.bounded_of_shrunk (l := l) rfl l.area.length.zero_le h

theorem Lane.descramble_bounded {l : Lane} (keys : KeySlot) (tuned : Bool) (now : Word32) (order : Nat) (c : Cell)
    (h : Lane.bounded l) : Lane.bounded (l.descramble keys tuned now order c).1 := by
  have status : ∀ k, Lane.bounded { l with keyStatus := k } := fun k => h
  unfold Lane.descramble
  split
  · split
    · exact l.place_bounded _ h
    · split
      · exact h
      · exact h
  · exact l.placeIf_bounded tuned _ h
  · split
    · exact Lane.place_bounded _ (status _)
    · exact h
  · exact Lane.placeIf_bounded tuned _ (status .keyed)
  · exact h

/-- An accepted cell leaves its lane within its area (R15). -/
theorem Lane.accept_bounded {l : Lane} (keys : KeySlot) (tuned : Bool) (now : Word32) (order : Nat) (c : Cell)
    (h : Lane.bounded l) : Lane.bounded (l.accept keys tuned now order c).1 := by
  have counted : Lane.bounded (l.counted c) := h
  unfold Lane.accept
  dsimp only
  split
  · exact counted
  · split
    · exact Lane.bounded_of_shrunk (l := l) rfl l.area.length.zero_le h
    · exact Lane.descramble_bounded keys tuned now order c counted

/-- The lane a SET LANE RESPONSE leaves has its cells or none. -/
theorem Lane.respond_bounded {l : Lane} (r : Response) (h : Lane.bounded l) : Lane.bounded (l.respond r) := by
  have flushed : ∀ l' : Lane, l'.config = l.config → l'.area = [] → Lane.bounded l' := fun l' hc ha =>
    Lane.bounded_of_shrunk hc (by simp [ha]) h
  unfold Lane.respond
  split
  · exact h
  · split
    · exact flushed _ rfl rfl
    · exact flushed _ rfl rfl
    · exact h
    · exact h
    · exact flushed _ rfl rfl

theorem State.lane_bounded {s : State} (h : AreasBounded s) (i : Nat) : Lane.bounded (s.lane i) := by
  unfold State.lane
  rw [List.getD_eq_getElem?_getD]
  cases hi : s.lanes[i]? with
  | none => exact rfl
  | some l => exact h l (List.mem_of_getElem? hi)

/-- A lane written in its place. -/
theorem State.setLane_kept (i : Nat) {l : Lane} (s : State) (h : Lane.bounded (s.lane i) → Lane.bounded l) :
    BoundsKept s (s.setLane i l) :=
  { BoundsKept.refl s with
    lanes := fun hl => by simpa [State.setLane] using hl
    areas := fun ha m hm => by
      rcases List.mem_or_eq_of_mem_set hm with hm | rfl
      · exact ha m hm
      · exact h (State.lane_bounded ha i) }

/-- Every lane changed in its place. -/
theorem State.mapLanes_kept {g : Lane → Lane} (hg : ∀ l : Lane, Lane.bounded l → Lane.bounded (g l)) (s : State) :
    BoundsKept s { s with lanes := s.lanes.map g } :=
  { BoundsKept.refl s with
    lanes := fun hl => by simpa using hl
    areas := fun ha m hm => by
      obtain ⟨l, hl, rfl⟩ := List.mem_map.1 hm
      exact hg l (ha l hl) }

theorem State.drainLanes_kept (e : ChannelEntry) (s : State) : BoundsKept s (s.drainLanes e) :=
  BoundsKept.foldl (fun s i => s.setLane_kept i Lane.drained_bounded) _ s

theorem State.untuneLanes_kept (old : ChannelEntry) (new : Option ChannelEntry) (s : State) :
    BoundsKept s (s.untuneLanes old new) :=
  BoundsKept.foldl (fun s i => s.setLane_kept i Lane.untuned_bounded) _ s

/-! ## Meters -/

/-- What a meter at index i may hold (R78, R79). -/
structure Meter.Serves (i : Nat) (m : Meter) : Prop where
  blank : freeMeterBlank m
  lock : i = 0 → (m.use = .free ∨ m.use = .unlock ∨ m.use = .lockout) ∧ m.hold = none
  purchase : i ≠ 0 → m.use = .free ∨ m.use = .preview ∨ m.use = .rental

/-- The meter bank's service, meter by meter. -/
theorem State.metersServe_iff (s : State) : MetersServe s ↔ ∀ i, (s.meter i).Serves i := by
  have hat : ∀ i m, s.meters[i]? = some m → s.meter i = m := by
    intro i m h
    simp [State.meter, List.getD_eq_getElem?_getD, h]
  have hnone : ∀ i, s.meters[i]? = none → s.meter i = Meter.free := by
    intro i h
    simp [State.meter, List.getD_eq_getElem?_getD, h]
  constructor
  · rintro ⟨hblank, huse, hhold, hrest⟩ i
    cases hi : s.meters[i]? with
    | none =>
      rw [hnone i hi]
      exact ⟨fun _ => rfl, fun _ => ⟨.inl rfl, rfl⟩, fun _ => .inl rfl⟩
    | some m =>
      refine ⟨hat i m hi ▸ hblank m (List.mem_of_getElem? hi), fun h0 => h0 ▸ ⟨huse, hhold⟩, fun h0 => ?_⟩
      rw [hat i m hi]
      refine hrest m (List.mem_of_getElem? (i := i - 1) ?_)
      rw [List.getElem?_drop, Nat.add_sub_cancel' (Nat.one_le_iff_ne_zero.2 h0)]
      exact hi
  · intro h
    refine ⟨fun m hm => ?_, ((h 0).lock rfl).1, ((h 0).lock rfl).2, fun m hm => ?_⟩
    · obtain ⟨i, hi⟩ := List.mem_iff_getElem?.1 hm
      exact hat i m hi ▸ (h i).blank
    · obtain ⟨i, hi⟩ := List.mem_iff_getElem?.1 hm
      rw [List.getElem?_drop] at hi
      exact hat _ m hi ▸ (h (1 + i)).purchase (by omega)

theorem Meter.free_serves (i : Nat) : Meter.free.Serves i :=
  ⟨fun _ => rfl, fun _ => ⟨.inl rfl, rfl⟩, fun _ => .inl rfl⟩

theorem State.meter_setMeter (s : State) (i j : Nat) (m : Meter) :
    (s.setMeter i m).meter j = if i = j ∧ j < s.meters.length then m else s.meter j := by
  unfold State.meter State.setMeter
  simp only [List.getD_eq_getElem?_getD, List.getElem?_set]
  by_cases h : i = j
  · subst h
    by_cases h2 : i < s.meters.length
    · simp [h2]
    · simp [h2]
  · simp [h]

/-- A meter written in its place. -/
theorem State.setMeter_kept (i : Nat) {m : Meter} (s : State) (h : (s.meter i).Serves i → m.Serves i) :
    BoundsKept s (s.setMeter i m) :=
  { BoundsKept.refl s with
    meters := fun hl => by simpa [State.setMeter] using hl
    service := fun hs => by
      rw [State.metersServe_iff] at *
      intro j
      rw [State.meter_setMeter]
      split
      · rename_i hij
        exact hij.1 ▸ h (hs i)
      · exact hs j }

theorem State.freeMeter_setMeter_kept {s : State} {i : Nat} {m : Meter} (hi : s.freeMeter = some i)
    (hb : freeMeterBlank m) (hu : m.use = .free ∨ m.use = .preview ∨ m.use = .rental) : BoundsKept s (s.setMeter i m) :=
  s.setMeter_kept i fun _ => ⟨hb, fun h0 => absurd (s.freeMeter_some i hi).1 (by omega), fun _ => hu⟩

theorem State.releaseMeter_kept (i p : Nat) (s : State) : BoundsKept s (s.releaseMeter i p) := by
  unfold State.releaseMeter
  dsimp only
  split
  · exact s.setMeter_kept i fun _ => Meter.free_serves i
  · exact .refl s

theorem State.holdPreview_kept (i p : Nat) (s : State) : BoundsKept s (s.holdPreview i p) := by
  unfold State.holdPreview
  dsimp only
  split
  · rename_i h
    obtain ⟨huse, -, -⟩ := h
    exact s.setMeter_kept i fun hs => ⟨fun hf => by simp [huse] at hf,
      fun h0 => absurd (hs.lock h0).1 (by simp [huse]), hs.purchase⟩
  · exact .refl s

/-- A rental starts on a meter that carries a commit hold, so not on meter 0 (R79, R83). -/
theorem State.startRental_kept (i p r n : Nat) (s : State) : BoundsKept s (s.startRental i p r n) := by
  unfold State.startRental
  split
  · rename_i h
    exact s.setMeter_kept i fun hs => ⟨fun hf => by simp [Meter.rental] at hf,
      fun h0 => absurd (h ▸ (hs.lock h0).2) (by simp), fun _ => .inr (.inr rfl)⟩
  · exact .refl s

theorem State.setBuffered_kept (i r n : Nat) (s : State) : BoundsKept s (s.setBuffered i r n) := by
  unfold State.setBuffered
  dsimp only
  split
  · rename_i h
    obtain ⟨huse, -⟩ := h
    exact s.setMeter_kept i fun hs => ⟨fun hf => by simp [huse] at hf,
      fun h0 => absurd (hs.lock h0).1 (by simp [huse]), hs.purchase⟩
  · exact .refl s

/-- A lock window opens on meter 0 (R72, R74). -/
theorem State.window_kept {use : MeterUse} (period : Nat) (h : use = .unlock ∨ use = .lockout) (s : State) :
    BoundsKept s (s.setMeter 0 (Meter.window use period)) :=
  s.setMeter_kept 0 fun _ =>
    ⟨fun hf => by rcases h with rfl | rfl <;> simp [Meter.window] at hf,
      fun _ => ⟨.inr h, rfl⟩, fun h0 => absurd rfl h0⟩

theorem State.closeWindow_kept (s : State) : BoundsKept s s.closeWindow := by
  unfold State.closeWindow
  split
  · exact s.setMeter_kept 0 fun _ => Meter.free_serves 0
  · exact .refl s

/-- A meter bank wholly FREE serves. -/
theorem State.metersServe_of_free {s : State} (h : s.meters = List.replicate 8 Meter.free) : MetersServe s := by
  rw [State.metersServe_iff]
  intro i
  have hm : s.meter i = Meter.free := by
    unfold State.meter
    rw [h]
    rw [List.getD_eq_getElem?_getD, List.getElem?_getD_replicate_default_eq]
  exact hm ▸ Meter.free_serves i

/-! ## The store -/

/-- An erase that starts leaves a sector of 64 slots (R127). -/
theorem FolioStore.onStart_whole {f : FolioStore} (op : StoreOp) (hf : f.Whole) : (f.onStart op).Whole := by
  unfold FolioStore.onStart
  split
  · refine ⟨by simpa using hf.1, fun sec hsec => ?_⟩
    rcases List.mem_or_eq_of_mem_set hsec with h | rfl
    · exact hf.2 sec h
    · rfl
  · exact hf

theorem State.startHead_kept (s : State) : BoundsKept s s.startHead := by
  unfold State.startHead
  split
  · exact .refl s
  · rename_i q rest hq
    exact { BoundsKept.refl s with
            whole := fun h => FolioStore.onStart_whole q.op h
            queue := fun h => by simpa [QueueBounded, hq] using h }

theorem State.startHead_queue_length (s : State) : s.startHead.store.queue.length = s.store.queue.length := by
  unfold State.startHead
  split
  · rfl
  · rename_i h
    simp [h]

/-- A queue with room takes an operation (R129, R130). -/
theorem State.push_kept (op : StoreOp) (s : State) (h : s.store.queue.length < 8) : BoundsKept s (s.push op) := by
  have joined : BoundsKept s
      { s with store := { s.store with queue := s.store.queue ++ [{ op := op, retried := false }] } } :=
    { BoundsKept.refl s with queue := fun _ => by simpa [QueueBounded] using h }
  unfold State.push
  dsimp only
  split
  · split
    · exact .refl s
    · exact joined.trans (State.startHead_kept _)
  · exact joined

theorem State.push_queue_length (op : StoreOp) (s : State) :
    (s.push op).store.queue.length ≤ s.store.queue.length + 1 := by
  unfold State.push
  dsimp only
  split
  · split
    · omega
    · rw [State.startHead_queue_length]; simp
  · simp

/-- A queue with room for all takes operations one after another. -/
theorem State.pushAll_kept (ops : List StoreOp) (s : State) (h : s.store.queue.length + ops.length ≤ 8) :
    BoundsKept s (s.pushAll ops) := by
  induction ops generalizing s with
  | nil => exact .refl s
  | cons op ops ih =>
    rw [List.length_cons] at h
    have hq := s.push_queue_length op
    exact (s.push_kept op (by omega)).trans (ih (s.push op) (by omega))

theorem FolioStore.not_queueFull {f : FolioStore} (h : f.queueFull = false) : f.queue.length < 8 := by
  simpa [FolioStore.queueFull] using h

theorem FolioStore.room_of_accepts {f : FolioStore} (h : (f.accepts && !f.queueFull) = true) : f.queue.length < 8 :=
  FolioStore.not_queueFull (by simpa using (Bool.and_eq_true_iff.1 h).2)

/-- A store that reports READY has nothing queued (R128). -/
theorem FolioStore.queue_of_ready {f : FolioStore} (h : f.state = .ready) : f.queue = [] := by
  unfold FolioStore.state at h
  repeat' split at h
  all_goals simp_all

theorem State.requestSettings_kept (s : State) : BoundsKept s s.requestSettings := by
  unfold State.requestSettings
  split
  · exact .refl s
  · split
    · rename_i h
      exact s.push_kept _ (FolioStore.room_of_accepts h)
    · exact .refl s

theorem State.requestRange_kept (t : RangeTarget) (ns : List Nat) (s : State) : BoundsKept s (s.requestRange t ns) := by
  unfold State.requestRange
  split
  · rename_i h
    exact s.push_kept _ (FolioStore.room_of_accepts h)
  · exact .refl s

theorem State.takeMarking_kept (s : State) : BoundsKept s s.takeMarking := by
  unfold State.takeMarking
  split
  · exact .refl s
  · split
    · rename_i n rest _ h
      exact BoundsKept.trans (t := { s with buying := { s.buying with marking := rest } }) { BoundsKept.refl s with }
        (State.push_kept _ _ (FolioStore.room_of_accepts h))
    · exact .refl s

theorem State.takeScanList_kept (s : State) : BoundsKept s s.takeScanList := by
  unfold State.takeScanList
  split
  · exact .refl s
  · split
    · rename_i n rest _ h
      exact BoundsKept.trans (t := { s with store := { s.store with scanList := rest } }) { BoundsKept.refl s with }
        (State.push_kept _ _ (FolioStore.room_of_accepts h))
    · exact .refl s

theorem State.fillRoom_kept (s : State) : BoundsKept s s.fillRoom :=
  s.takeMarking_kept.trans (State.takeScanList_kept _)

theorem State.markPreviewed_kept (n : Nat) (s : State) : BoundsKept s (s.markPreviewed n) := by
  unfold State.markPreviewed
  split
  · split
    · exact { BoundsKept.refl s with }
    · rename_i h
      exact s.push_kept _ (FolioStore.not_queueFull (by simpa using h))
  · exact .refl s

theorem FolioStore.closeOps_length (f : FolioStore) : f.closeOps.length ≤ 6 := by
  unfold FolioStore.closeOps
  split
  · have h := (List.dropWhile_sublist (fun k => (f.sector k).whollyErased) (l := [0, 1, 2, 3])).length_le
    have h4 : f.sectorsFromFirst.length ≤ 4 := h
    simp only [List.length_append, List.length_map, List.length_cons, List.length_nil]
    omega
  · simp

theorem State.startClose_kept (s : State) : BoundsKept s s.startClose := by
  unfold State.startClose
  split
  · rename_i h
    have hlen := s.store.closeOps_length
    exact s.pushAll_kept _ (by rw [h, List.length_nil]; omega)
  · exact .refl s

theorem State.popOp_kept (s : State) : BoundsKept s s.popOp :=
  { BoundsKept.refl s with queue := fun h => by simp only [QueueBounded, State.popOp, List.length_drop]; omega }

theorem State.startNext_kept (more : Nat) (s : State) : BoundsKept s (s.startNext more) := by
  induction more generalizing s with
  | zero => exact s.startHead_kept
  | succ more ih =>
    unfold State.startNext
    split
    · exact (s.popOp_kept.trans (State.fillRoom_kept _)).trans (ih _)
    · exact s.startHead_kept

theorem State.proceed_kept (op : StoreOp) (s : State) : BoundsKept s (s.proceed op) := by
  unfold State.proceed
  split
  · exact s.startClose_kept
  · exact s.startNext_kept _

/-- A step of an operation keeps the sectors whole. -/
theorem opSteps_whole (f : FolioStore) (op : StoreOp) :
    ∀ g ∈ opSteps f op, ∀ x : FolioStore, x.Whole → (g x).Whole := by
  have slot : ∀ n h (x : FolioStore), x.Whole → (x.onSlot n h).Whole := fun n h x hx => FolioStore.whole_onSlot hx n h
  have commit : ∀ n c, ∀ g ∈ commitSteps n c, ∀ x : FolioStore, x.Whole → (g x).Whole := by
    intro n c g hg
    simp only [commitSteps, List.mem_cons, List.not_mem_nil, or_false] at hg
    rcases hg with rfl | rfl | rfl | rfl <;> exact slot _ _
  intro g hg
  cases op with
  | append r =>
    simp only [opSteps, appendSteps, List.mem_append, List.mem_cons, List.not_mem_nil, or_false] at hg
    rcases hg with ((rfl | rfl | rfl | rfl | rfl | rfl) | hg) | rfl
    case inl.inr =>
      split at hg
      · exact commit _ _ g hg
      · simp at hg
    all_goals exact slot _ _
  | advance n t =>
    simp only [opSteps, advanceSteps] at hg
    split at hg
    · simp at hg
    · split at hg <;> simp only [List.mem_append, List.mem_cons, List.not_mem_nil, or_false] at hg
      · rcases hg with rfl | rfl <;> exact slot _ _
      · rcases hg with hg | rfl
        · exact commit _ _ g hg
        · exact slot _ _
  | advanceRange t ns =>
    simp only [opSteps, rangeSteps, List.mem_map] at hg
    obtain ⟨n, -, rfl⟩ := hg
    exact slot _ _
  | writeExtension n m =>
    simp only [opSteps, extensionSteps] at hg
    split at hg <;> simp only [List.mem_cons, List.not_mem_nil, or_false] at hg
    subst hg
    exact slot _ _
  | writeSettings b v =>
    rcases v with _ | ⟨n, v⟩ <;> simp only [opSteps, settingsSteps, List.mem_cons, List.not_mem_nil, or_false] at hg
    rcases hg with rfl | rfl | rfl | rfl | rfl | rfl | rfl | rfl | rfl | rfl | rfl | rfl | rfl | rfl <;>
      exact fun x hx => hx
  | eraseSector k =>
    simp only [opSteps, List.mem_cons, List.not_mem_nil, or_false] at hg
    subst hg
    refine fun x hx => ⟨by simpa using hx.1, fun sec hsec => ?_⟩
    rcases List.mem_or_eq_of_mem_set hsec with h | rfl
    · exact hx.2 sec h
    · rfl
  | closeMark =>
    simp only [opSteps, List.mem_cons, List.not_mem_nil, or_false] at hg
    subst hg
    exact fun x hx => hx

theorem foldl_whole {gs : List (FolioStore → FolioStore)} (h : ∀ g ∈ gs, ∀ x : FolioStore, x.Whole → (g x).Whole)
    {f : FolioStore} (hf : f.Whole) : (gs.foldl (fun f g => g f) f).Whole := by
  induction gs generalizing f with
  | nil => exact hf
  | cons g gs ih => exact ih (fun g' hg' => h g' (by simp [hg'])) (h g (by simp) f hf)

theorem FolioStore.programAll_whole {f : FolioStore} (op : StoreOp) (hf : f.Whole) : (f.programAll op).Whole :=
  foldl_whole (opSteps_whole f op) hf

theorem FolioStore.programSteps_whole {f : FolioStore} (op : StoreOp) (k : Nat) (hf : f.Whole) :
    (f.programSteps op k).Whole := by
  refine foldl_whole (fun g hg => opSteps_whole f op g ?_) hf
  unfold FolioStore.attempted at hg
  split at hg
  · simp at hg
  · exact List.mem_of_mem_take hg

theorem FolioStore.programAll_queue (f : FolioStore) (op : StoreOp) : (f.programAll op).queue = f.queue := by
  have h := congrArg FolioStore.queue (f.programAll_same op)
  exact h

theorem FolioStore.programSteps_queue (f : FolioStore) (op : StoreOp) (k : Nat) :
    (f.programSteps op k).queue = f.queue := by
  have h := congrArg FolioStore.queue (f.programSteps_same op k)
  exact h

/-- Stored content that stays whole under a queue that grows no longer. -/
theorem State.stored_kept {f : FolioStore → FolioStore} (s : State) (hw : s.store.Whole → (f s.store).Whole)
    (hq : s.store.queue.length ≤ 8 → (f s.store).queue.length ≤ 8) : BoundsKept s (s.stored f) :=
  { BoundsKept.refl s with whole := hw, queue := hq }

theorem State.programAll_kept (op : StoreOp) (s : State) : BoundsKept s (s.stored fun f => f.programAll op) :=
  s.stored_kept (FolioStore.programAll_whole op) (fun h => by rwa [FolioStore.programAll_queue])

theorem State.programSteps_kept (op : StoreOp) (k : Nat) (s : State) :
    BoundsKept s (s.stored fun f => f.programSteps op k) :=
  s.stored_kept (FolioStore.programSteps_whole op k) (fun h => by rwa [FolioStore.programSteps_queue])

end Sys2Proof.Machine
end

section
/-!
SUPPORT. The re-decision, previews, completions, notices, the local second, the output slot and the guest keypad keep
the bounds.
-/

namespace Sys2Proof.Machine

/-! ## Previews and the re-decision -/

/-- A preview begins where the queue is empty, on a free meter (R79, R103). -/
theorem State.beginPreview_kept (n : Nat) (p : Programme) {s : State} (h : s.canPreview p = true) :
    BoundsKept s (s.beginPreview n p) := by
  have hready : s.store.state = .ready := by
    simp only [State.canPreview, Bool.and_eq_true, beq_iff_eq] at h
    exact h.2
  have hroom : s.takeRecordNumber.store.queue.length < 8 := by
    show s.store.queue.length < 8
    simp [FolioStore.queue_of_ready hready]
  unfold State.beginPreview
  split
  · exact .refl s
  · rename_i m hm
    have appended : ∀ r, BoundsKept s (s.takeRecordNumber.push (.append r)) := fun r =>
      BoundsKept.trans (t := s.takeRecordNumber) { BoundsKept.refl s with } (State.push_kept _ _ hroom)
    have free : ∀ r, (s.takeRecordNumber.push (.append r)).freeMeter = some m := fun r => by
      rw [State.push_append]
      exact hm
    exact ((appended _).trans (State.freeMeter_setMeter_kept (m := Meter.preview p.id n _ _) (free _)
      (fun hf => by simp [Meter.preview] at hf) (.inr (.inl rfl)))).trans { BoundsKept.refl _ with }

theorem State.askedPreview_kept (e : ChannelEntry) (s : State) : BoundsKept s (s.askedPreview e) := by
  obtain ⟨asked, unasked⟩ := s.askedPreview_eq e
  cases hv : (s.viewDecision e).2 with
  | true =>
    obtain ⟨p, -, hc, h⟩ := asked hv
    exact h ▸ State.beginPreview_kept e.number p hc
  | false => exact (unasked hv).symm ▸ .refl s

theorem State.redecide_kept (s : State) : BoundsKept s s.redecide := by
  unfold State.redecide
  split
  · exact .refl s
  · rename_i e _
    exact ((s.askedPreview_kept e).trans (State.composer_kept _ (by simp) (by simp))).trans
      (State.endStaleUnlock_kept _)

theorem State.followOutput_kept (s : State) : BoundsKept s s.followOutput := by
  unfold State.followOutput
  split
  · exact .refl s
  · rename_i e _
    dsimp only
    have begun : BoundsKept s (if s.cutReached e then s.beginSlate else s) := by
      split
      · exact s.beginSlate_kept
      · exact .refl s
    split
    · exact begun.trans (State.drainLanes_kept e _)
    · exact begun

/-- What ends a command keeps the bounds. -/
theorem State.finish_kept (s : State) : BoundsKept s s.finish := s.redecide_kept.trans (State.followOutput_kept _)

/-- A command's own effect within the bounds, ended. -/
theorem BoundsKept.finish {s t : State} (h : BoundsKept s t) : BoundsKept s t.finish := h.trans t.finish_kept

theorem State.tune_kept (n : Nat) (s : State) : BoundsKept s (s.tune n) := by
  unfold State.tune
  split
  · exact .refl s
  · rename_i e _
    dsimp only
    have left : BoundsKept s (match s.tunedEntry with
        | some old => s.untuneLanes old (some e)
        | none => s) := by
      split
      · exact s.untuneLanes_kept _ _
      · exact .refl s
    refine BoundsKept.trans ?_ (State.followOutput_kept _)
    refine BoundsKept.trans ?_ (State.endStaleUnlock_kept _)
    refine BoundsKept.trans ?_ (State.composer_kept _ rfl rfl)
    refine BoundsKept.trans ?_ (State.askedPreview_kept e _)
    exact left.trans { BoundsKept.refl _ with }

theorem State.untune_kept (old : ChannelEntry) (s : State) : BoundsKept s (s.untune old) := by
  unfold State.untune
  refine BoundsKept.trans ?_ (State.endStaleUnlock_kept _)
  exact (s.untuneLanes_kept old none).trans { BoundsKept.refl _ with }

theorem State.endPreview_kept (p : Preview) (s : State) : BoundsKept s (s.endPreview p) :=
  ((s.releaseMeter_kept _ _).trans (State.dropPreview_kept _ _)).trans (State.markPreviewed_kept _ _)

theorem State.programmeChanged_kept (n : Nat) (s : State) : BoundsKept s (s.programmeChanged n) := by
  have ended : BoundsKept s _ := BoundsKept.foldl (fun s p => s.endPreview_kept p)
    (s.buying.previews.filter fun p => p.channel == n && p.state == .running) s
  unfold State.programmeChanged
  dsimp only
  split
  · split
    · exact ended.trans (State.clearRefusal_kept _)
    · exact ended
  · exact ended

/-! ## Completions -/

theorem State.commitOk_kept (n : Nat) (s : State) : BoundsKept s (s.commitOk n) := by
  unfold State.commitOk
  split
  · exact .refl s
  · rename_i c _
    have dropped : BoundsKept s (s.dropCommit n) := { BoundsKept.refl s with }
    have started : BoundsKept s (((s.dropCommit n).dropBought c).startRental c.meter c.programme n
        (((s.store.slot n).minutes.getD 0) * 60)) :=
      (dropped.trans (State.dropBought_kept c _)).trans (State.startRental_kept _ _ _ _ _)
    refine BoundsKept.trans ?_ (State.raise_kept _ _)
    exact started.trans { BoundsKept.refl _ with }

theorem State.commitFails_kept (n : Nat) (s : State) : BoundsKept s (s.commitFails n) := by
  unfold State.commitFails
  split
  · exact .refl s
  · have dropped : BoundsKept s (s.dropCommit n) := { BoundsKept.refl s with }
    exact (dropped.trans (State.releaseMeter_kept _ _ _)).trans (State.dropBought_kept _ _)

theorem State.onRental_kept (n : Nat) (g : Rental → Rental) (s : State) : BoundsKept s (s.onRental n g) :=
  { BoundsKept.refl s with }

theorem State.extensionOk_kept (n m : Nat) (s : State) : BoundsKept s (s.extensionOk n m) := by
  unfold State.extensionOk
  split
  · exact .refl s
  · split
    · exact (s.onRental_kept _ _).trans (State.setBuffered_kept _ _ _ _)
    · exact .refl s

theorem State.requesterOk_kept (op : StoreOp) (s : State) : BoundsKept s (s.requesterOk op) := by
  unfold State.requesterOk
  split
  · split
    · exact s.commitOk_kept _
    · exact .refl s
  · exact s.commitOk_kept _
  · exact s.extensionOk_kept _ _
  · exact .refl s

theorem State.requesterFail_kept (op : StoreOp) (s : State) : BoundsKept s (s.requesterFail op) := by
  unfold State.requesterFail
  split
  · split
    · exact s.commitFails_kept _
    · exact .refl s
  · exact s.commitFails_kept _
  · exact s.onRental_kept _ _
  · exact .refl s

theorem State.closeEnds_kept (s : State) : BoundsKept s s.closeEnds :=
  BoundsKept.trans (t := { s with store := { s.store with
      folio := nextFolio s.store.folio, nextRecord := 1, closing := false, fault := false, resumed := false } })
    { BoundsKept.refl s with } (State.raise_kept _ _)

theorem State.opDone_kept (op : StoreOp) (s : State) : BoundsKept s (s.opDone op) := by
  have popped : BoundsKept s (s.stored fun f => f.programAll op).popOp :=
    (s.programAll_kept op).trans (State.popOp_kept _)
  unfold State.opDone
  dsimp only
  split
  · exact popped
  · refine BoundsKept.finish (BoundsKept.trans ?_ (State.proceed_kept op _))
    refine BoundsKept.trans ?_ (State.fillRoom_kept _)
    have told := popped.trans (State.requesterOk_kept op _)
    split
    · exact told.trans (State.closeEnds_kept _)
    · exact told

/-- The retry takes the place of the operation that failed (R134). -/
theorem State.opRetried_kept (q : QueuedOp) (k : Nat) {s : State} (h : s.store.queue ≠ []) :
    BoundsKept s (s.opRetried q k) := by
  have hlen := List.length_pos_of_ne_nil h
  have again : ∀ a : QueuedOp, BoundsKept s
      (s.stored fun f => { f.programSteps q.op k with queue := a :: f.queue.drop 1 }) := fun a =>
    s.stored_kept (fun hw => FolioStore.programSteps_whole q.op k hw) fun hq => by
      simp only [List.length_cons, List.length_drop]
      omega
  unfold State.opRetried
  dsimp only
  split
  · exact (again _).trans (State.opDone_kept _ _)
  · exact again _

theorem State.opFailed_kept (op : StoreOp) (k : Nat) (s : State) : BoundsKept s (s.opFailed op k) := by
  have failed : BoundsKept s (State.raise .storeError (s.stored fun f => f.programSteps op k).popOp) :=
    ((s.programSteps_kept op k).trans (State.popOp_kept _)).trans (State.raise_kept _ _)
  have dropped : ∀ u : State, BoundsKept u u.dropWaiting := fun u =>
    BoundsKept.trans (t := { u with store := { u.store with queue := [] } })
      { BoundsKept.refl u with queue := fun _ => Nat.zero_le _ }
      (BoundsKept.foldl (fun s (q : QueuedOp) => s.requesterFail_kept q.op) _ _)
  have faulted : ∀ u : State,
      BoundsKept u (u.stored fun f => { f with fault := true, closing := f.closing && !op.ofClose }) := fun u =>
    u.stored_kept id id
  unfold State.opFailed
  dsimp only
  split
  · exact failed
  · refine BoundsKept.finish ?_
    have all := ((failed.trans (State.requesterFail_kept op _)).trans (dropped _)).trans (faulted _)
    split
    · exact all.trans (State.startClose_kept _)
    · exact all

theorem State.opFails_kept (q : QueuedOp) (k : Nat) {s : State} (h : s.store.queue ≠ []) :
    BoundsKept s (s.opFails q k) := by
  unfold State.opFails
  split
  · exact s.opFailed_kept _ _
  · exact State.opRetried_kept q k h

theorem State.completion_kept (kind : OpKind) (r : OpResult) (s : State) :
    BoundsKept s (State.completion kind r s) := by
  unfold State.completion
  split
  · exact .refl s
  · rename_i q rest hq
    have hne : s.store.queue ≠ [] := by simp [hq]
    split
    · split
      · exact State.opFails_kept q 0 hne
      · split
        · exact s.opDone_kept _
        · split
          · exact s.opDone_kept _
          · exact State.opFails_kept q _ hne
    · exact .refl s

/-! ## Notices, hotel time and rentals -/

theorem State.setNotice_kept (i : Nat) (e : NoticeEntry) (s : State) : BoundsKept s (s.setNotice i e) :=
  { BoundsKept.refl s with entries := fun h => by simpa [State.setNotice] using h }

theorem State.countDiscard_kept (s : State) : BoundsKept s s.countDiscard := { BoundsKept.refl s with }

theorem State.setRecords_kept (i n : Nat) (e : NoticeEntry) (s : State) : BoundsKept s (State.setRecords i n e s) := by
  unfold State.setRecords
  refine BoundsKept.finish ?_
  split
  · exact s.setNotice_kept i e
  · exact (s.setNotice_kept i e).trans (State.programmeChanged_kept n _)

theorem State.notice_kept (code : Nat) (f : NoticeFields) (s : State) : BoundsKept s (State.notice code f s) := by
  unfold State.notice
  dsimp only
  split
  · exact .refl s
  · split
    · exact s.countDiscard_kept
    · split
      · exact s.countDiscard_kept
      · split
        · exact s.setRecords_kept _ _ _
        · exact s.setNotice_kept _ _

theorem State.restoreRental_kept (h : Nat) (s : State) (x : Slot × Nat) : BoundsKept s (State.restoreRental h s x) := by
  unfold State.restoreRental
  split
  · rename_i m p hm hp
    refine BoundsKept.trans (State.freeMeter_setMeter_kept hm (fun hf => ?_) (.inr (.inr rfl)))
      { BoundsKept.refl _ with }
    simp [Meter.rental] at hf
  · exact .refl s

theorem State.restoreRentals_kept (s : State) : BoundsKept s s.restoreRentals := by
  unfold State.restoreRentals
  split
  · exact .refl s
  · split
    · exact .refl s
    · exact BoundsKept.foldl (State.restoreRental_kept _) _ s

theorem State.handRestoration_kept (s : State) : BoundsKept s s.handRestoration := by
  unfold State.handRestoration
  split
  · exact { BoundsKept.refl s with }
  · exact s.restoreRentals_kept

theorem State.beacon_kept (t : Nat) (s : State) : BoundsKept s (State.beacon t s) := by
  have noted : BoundsKept s
      { s with notices := { s.notices with hotelTime := some t, restorationPending := false } } :=
    { BoundsKept.refl s with }
  unfold State.beacon
  refine BoundsKept.finish ?_
  split
  · exact noted.trans (State.handRestoration_kept _)
  · exact noted

/-! ## The local second and its events -/

theorem State.meterTicked_serves (s : State) {i : Nat} {m : Meter} (h : m.Serves i) : (s.meterTicked m).Serves i := by
  unfold State.meterTicked
  split
  · rename_i hc
    obtain ⟨huse, -⟩ := (s.meterCounts_iff m).1 hc
    exact ⟨fun hf => absurd hf huse, h.lock, h.purchase⟩
  · exact h

theorem State.counted_kept (s : State) : BoundsKept s s.counted :=
  { BoundsKept.refl s with
    lanes := (State.mapLanes_kept (g := Lane.ticked) (fun l h => by unfold Lane.ticked; split <;> exact h) s).lanes
    areas := (State.mapLanes_kept (g := Lane.ticked) (fun l h => by unfold Lane.ticked; split <;> exact h) s).areas
    meters := fun h => by simpa [State.counted] using h
    service := fun h => by
      rw [State.metersServe_iff] at *
      intro i
      rw [State.meter_counted]
      exact s.meterTicked_serves (h i) }

theorem State.localSecond_kept (s : State) : BoundsKept s s.localSecond :=
  s.counted_kept.trans { BoundsKept.refl _ with }

theorem State.selectChannel_kept (n : Nat) (s : State) : BoundsKept s (s.selectChannel n) := by
  unfold State.selectChannel
  split
  · exact .refl s
  · exact s.tune_kept n

theorem State.completeEntry_kept (s : State) : BoundsKept s s.completeEntry :=
  s.endEntry_kept.trans (State.selectChannel_kept _ _)

theorem State.swapProgramme_kept (n : Nat) (s : State) : BoundsKept s (s.swapProgramme n) := by
  unfold State.swapProgramme
  split
  · exact .refl s
  · dsimp only
    split
    · exact .refl s
    · exact s.setRecords_kept _ _ _

theorem State.endProgramme_kept (n : Nat) (s : State) : BoundsKept s (s.endProgramme n) := by
  unfold State.endProgramme
  split
  · exact .refl s
  · exact s.setRecords_kept _ _ _

theorem State.loseStream_kept (i : Nat) (s : State) : BoundsKept s (s.loseStream i) :=
  ((s.setLane_kept i (l := (s.lane i).toLost) Lane.untuned_bounded).trans (State.raise_kept _ _)).finish

theorem State.endWait_kept (i : Nat) (s : State) : BoundsKept s (s.endWait i) :=
  ((s.setLane_kept i (l := (s.lane i).expireWait) fun h =>
    Lane.bounded_of_shrunk (l := s.lane i) rfl (List.length_filter_le _ _) h).trans (State.raise_kept _ _)).finish

theorem State.terminal_kept (i : Nat) (s : State) : BoundsKept s (s.terminal i) := by
  have freed : BoundsKept s (s.setMeter i Meter.free) := s.setMeter_kept i fun _ => Meter.free_serves i
  unfold State.terminal
  refine BoundsKept.finish ?_
  split
  · exact freed
  · exact freed
  · exact freed.trans { BoundsKept.refl _ with }
  · refine freed.trans ?_
    unfold State.previewTerminal
    split
    · exact .refl _
    · exact ((State.dropPreview_kept _ _).trans (State.markPreviewed_kept _ _)).trans (State.raise_kept _ _)
  · refine freed.trans (BoundsKept.trans ?_ (State.raise_kept _ _))
    exact { BoundsKept.refl _ with }

/-- A FREE meter has no buffered period, so the meter that goes on is in use (R78, R91). -/
theorem State.extendMeter_kept (i : Nat) (s : State) : BoundsKept s (s.extendMeter i) := by
  unfold State.extendMeter
  split
  · exact .refl s
  · rename_i b hb
    refine BoundsKept.finish (BoundsKept.trans (t := s.setMeter i ((s.meter i).extendedBy b))
      (s.setMeter_kept i fun hs => ⟨fun hf => ?_, hs.lock, hs.purchase⟩) { BoundsKept.refl _ with })
    have hblank : (s.meter i).buffered = none := congrArg Meter.buffered (hs.blank hf)
    rw [hb] at hblank
    cases hblank

/-- An event of a local second keeps the bounds. -/
theorem State.perform_kept (s : State) (e : TickEvent) : BoundsKept s (s.perform e) := by
  have on : ∀ (p : Prop) [Decidable p] {t : State}, BoundsKept s t → BoundsKept s (if p then t else s) := by
    intro p _ t h
    split
    · exact h
    · exact .refl s
  cases e with
  | streamLost i => exact on _ (s.loseStream_kept i)
  | keyWaitExpiry i => exact on _ (s.endWait_kept i)
  | programmeSwap n => exact on _ (s.swapProgramme_kept n)
  | programmeEnd n => exact on _ (s.endProgramme_kept n)
  | pinEntryTimeout => exact on _ s.pinIdle_kept
  | channelEntryTimeout => exact on _ s.completeEntry_kept
  | cutAllowanceEnd => exact on _ s.beginSlate_kept.finish
  | refusalExpiry => exact on _ s.clearRefusal_kept.finish
  | compare i => exact on _ (s.raise_kept _)
  | terminal i => exact on _ (s.terminal_kept i)
  | extended i => exact on _ (s.extendMeter_kept i)

theorem State.catchUp_kept (s : State) : BoundsKept s s.catchUp :=
  BoundsKept.trans (t := { s with due := [], keypad := { s.keypad with restarted := false } })
    { BoundsKept.refl s with }
    (BoundsKept.foldl State.perform_kept _ _)

/-! ## The output slot -/

theorem State.port_kept (c : Cell) (s : State) : BoundsKept s { s with composer := { s.composer with port := c } } :=
  s.composer_kept rfl rfl

theorem State.programmeSlot_kept (e : ChannelEntry) (s : State) : BoundsKept s (s.programmeSlot e) := by
  unfold State.programmeSlot
  split
  · exact s.port_kept _
  · rename_i i c _
    have taken : BoundsKept s (s.takeOldest i) :=
      s.setLane_kept i fun h => Lane.bounded_of_shrunk (l := s.lane i) rfl (by simp) h
    exact taken.trans (State.composer_kept _ rfl rfl)

theorem State.waitingSlot_kept (e : ChannelEntry) (s : State) : BoundsKept s (s.waitingSlot e) := by
  have before : ∀ (u : State) (i n : Nat), BoundsKept u (u.setLane i ((u.lane i).dropBefore n)) := fun u i n =>
    u.setLane_kept i fun h => by
      unfold Lane.dropBefore
      split
      · exact Lane.bounded_of_shrunk (l := u.lane i) rfl (List.dropWhile_suffix _).length_le h
      · exact h
  have through : ∀ (u : State) (i : Nat), BoundsKept u (u.setLane i (u.lane i).dropThroughStart) := fun u i =>
    u.setLane_kept i (Lane.bounded_of_shrunk rfl
      (((List.drop_suffix 1 _).trans (List.dropWhile_suffix _)).length_le))
  unfold State.waitingSlot
  split
  · exact (s.drainLanes_kept e).trans (State.composer_kept _ (by simp) (by simp))
  · dsimp only
    refine BoundsKept.trans (BoundsKept.trans ?_ (through _ _)) (State.composer_kept _ rfl rfl)
    split
    · exact before s _ _
    · exact .refl s

theorem State.slateSlot_kept (k : Slate) (last : Option Nat) (seq : Nat) (s : State) :
    BoundsKept s (s.slateSlot k last seq) := by
  unfold State.slateSlot
  split
  · exact s.port_kept _
  · split
    · exact s.composer_kept rfl rfl
    · exact s.port_kept _

theorem State.outputSlot_kept (s : State) : BoundsKept s s.outputSlot := by
  unfold State.outputSlot
  split
  · exact s.slateSlot_kept _ _ _
  · exact (s.programmeSlot_kept _).trans (State.followOutput_kept _)
  · exact (s.programmeSlot_kept _).trans (State.followOutput_kept _)
  · exact s.waitingSlot_kept _
  · exact s.port_kept _

/-! ## The guest keypad -/

/-- A lock that keeps its map and its ceilings. -/
theorem State.lock_kept (s : State) {l : RatingLock} (hm : l.map = s.lock.map) (hf : l.stayF = s.lock.stayF)
    (hg : l.g ≤ s.lock.g) : BoundsKept s { s with lock := l } :=
  { BoundsKept.refl s with
    map := fun h => hm ▸ h
    ceiling := fun h => by
      rw [CeilingHeld, hf]
      exact hg.trans h }

theorem State.unlockMatched_kept (s : State) : BoundsKept s s.unlockMatched := by
  have matched : BoundsKept s { s with lock := { s.lock with entry := .idle, wrongCount := 0 } } :=
    s.lock_kept rfl rfl le_rfl
  exact (matched.trans (State.window_kept _ (.inl rfl) _)).finish

/-- G goes no higher than F (R61, R70). -/
theorem State.raiseMatched_kept (target : Nat) (s : State) : BoundsKept s (s.raiseMatched target) :=
  BoundsKept.finish { BoundsKept.refl s with ceiling := fun _ => Nat.min_le_right _ _ }

theorem State.pinMismatched_kept (s : State) : BoundsKept s s.pinMismatched := by
  have wrong : BoundsKept s { s with lock := { s.lock with entry := .idle, wrongCount := s.lock.wrongCount + 1 } } :=
    s.lock_kept rfl rfl le_rfl
  unfold State.pinMismatched
  dsimp only
  split
  · exact ((wrong.trans (State.window_kept _ (.inr rfl) _)).trans (State.raise_kept _ _)).finish
  · exact wrong

theorem State.rateDigit_kept (d : Nat) (s : State) : BoundsKept s (s.rateDigit d) := by
  unfold State.rateDigit
  split
  · rename_i h
    exact (s.lock_kept (l := { s.lock with entry := .idle, g := d }) rfl rfl h).finish
  · split
    · exact s.pinIdle_kept
    · split
      · exact s.pinIdle_kept
      · exact s.lock_kept rfl rfl le_rfl

theorem State.pinDigit_kept (d : Nat) (s : State) : BoundsKept s (s.pinDigit d) := by
  have entry : ∀ x : PinEntry, BoundsKept s { s with lock := { s.lock with entry := x } } := fun _ =>
    s.lock_kept rfl rfl le_rfl
  unfold State.pinDigit
  split
  · split
    · exact .refl s
    · split
      · exact entry _
      · exact .refl s
  · exact s.rateDigit_kept d
  · split
    · exact entry _
    · split
      · exact s.unlockMatched_kept
      · exact s.pinMismatched_kept
  · split
    · exact entry _
    · split
      · exact s.raiseMatched_kept _
      · exact s.pinMismatched_kept

theorem State.digitKey_kept (d : Nat) (s : State) : BoundsKept s (s.digitKey d) := by
  unfold State.digitKey
  split
  · exact s.endEntry_kept.trans (State.pinDigit_kept d _)
  · have joined : BoundsKept s { s with keypad := { s.keypad with digits := s.keypad.digits ++ [d] } } :=
      { BoundsKept.refl s with }
    unfold State.channelDigit
    dsimp only
    split
    · exact joined
    · exact joined.trans (State.completeEntry_kept _)

theorem State.stepTo_kept (target : Option Nat) (s : State) : BoundsKept s (s.stepTo target) := by
  unfold State.stepTo
  split
  · exact s.endEntry_kept
  · exact s.endEntry_kept.trans (State.selectChannel_kept _ _)

theorem State.previewBuy_kept (q : Preview) (p : Programme) {s : State} (h : s.store.queue.length < 8) :
    BoundsKept s (s.previewBuy q p) := by
  have marked : BoundsKept s ((s.holdPreview q.meter p.id).markBuying p.id) :=
    (s.holdPreview_kept _ _).trans { BoundsKept.refl _ with }
  have queued := marked.trans (State.push_kept (.advance q.record (.committed (s.commitFields p))) _ (by simpa using h))
  exact BoundsKept.finish (queued.trans { BoundsKept.refl _ with })

theorem State.directBuy_kept (channel : Nat) (p : Programme) {s : State} {m : Nat} (hm : s.freeMeter = some m)
    (h : s.store.queue.length < 8) : BoundsKept s (s.directBuy m channel p) := by
  have reserved : BoundsKept s (s.reserveMeter m p.id).takeRecordNumber :=
    (State.freeMeter_setMeter_kept hm (fun _ => rfl) (.inl rfl)).trans { BoundsKept.refl _ with }
  have queued := reserved.trans (State.push_kept (.append (s.directRecord channel p)) _
    (show s.store.queue.length < 8 from h))
  exact BoundsKept.finish (queued.trans { BoundsKept.refl _ with })

/-- A BUY that passes its checks finds room in the queue (R110). -/
theorem State.buyCheck_room {s : State} {p : Programme} (h : s.buyCheck p = none) : s.store.queue.length < 8 := by
  unfold State.buyCheck at h
  split at h
  · cases h
  · rename_i hw
    exact FolioStore.not_queueFull (by simpa using fun hf => hw (.inr (.inr hf)))

theorem State.buy_kept (s : State) : BoundsKept s s.buy := by
  unfold State.buy
  split
  · exact .refl s
  · split
    · exact BoundsKept.finish { BoundsKept.refl s with }
    · rename_i hc
      split
      · exact State.previewBuy_kept _ _ (State.buyCheck_room hc)
      · rename_i m _ hm
        exact State.directBuy_kept _ _ hm (State.buyCheck_room hc)
      · exact .refl s

theorem State.cancelKey_kept (s : State) : BoundsKept s s.cancelKey := by
  unfold State.cancelKey
  split
  · exact s.pinIdle_kept
  · split
    · exact s.endEntry_kept
    · unfold State.cancelPreview
      split
      · exact .refl s
      · split
        · exact .refl s
        · split
          · exact (s.endPreview_kept _).finish
          · exact .refl s

theorem State.keyAction_kept (code : Nat) (s : State) : BoundsKept s (s.keyAction code) := by
  unfold State.keyAction
  split
  · unfold State.enterKey
    split
    · exact .refl s
    · exact s.completeEntry_kept
  · exact s.stepTo_kept _
  · exact s.stepTo_kept _
  · exact s.endEntry_kept.trans (State.buy_kept _)
  · exact s.cancelKey_kept
  · exact ((s.endEntry_kept.trans (State.pinIdle_kept _)).trans (State.closeWindow_kept _)).finish
  · exact s.endEntry_kept.trans (State.lock_kept _ rfl rfl le_rfl)
  · split
    · exact s.digitKey_kept _
    · exact .refl s

theorem State.touchKeys_kept (s : State) : BoundsKept s s.touchKeys := { BoundsKept.refl s with }

theorem State.frameTouches_kept (code : Nat) (s : State) : BoundsKept s (s.frameTouches code) :=
  s.touchKeys_kept.trans { BoundsKept.refl _ with }

theorem State.keyFrame_kept (code : Nat) (held : Bool) (s : State) : BoundsKept s (s.keyFrame code held) := by
  unfold State.keyFrame
  split
  · exact (s.touchKeys_kept.trans (State.keyAction_kept code _)).trans { BoundsKept.refl _ with }
  · exact s.frameTouches_kept code

theorem State.keyError_kept (s : State) : BoundsKept s s.keyError := { BoundsKept.refl s with }

theorem State.expireFirstByte_kept (s : State) : BoundsKept s s.expireFirstByte := by
  unfold State.expireFirstByte
  split
  · exact .refl s
  · exact s.keyError_kept

theorem State.keypadByte_kept (b : Byte) (s : State) : BoundsKept s (State.keypadByte b s) := by
  unfold State.keypadByte
  split
  · exact { BoundsKept.refl s with }
  · dsimp only
    split
    · exact s.keyFrame_kept _ _
    · exact s.keyError_kept

end Sys2Proof.Machine
end

section
/-!
SUPPORT. Management commands, power, RESTART and the scan keep the bounds.
-/

namespace Sys2Proof.Machine

/-! ## Management commands -/

/-- A command keeps the bounds if its owner's effect does, taken where its check passes. -/
theorem State.command_kept {t : Target} {k : CommandKind} {check : State → Option Reason} {effect : State → State}
    {s : State} (h : check s = none → BoundsKept s (effect s)) : BoundsKept s (s.command t k check effect) := by
  unfold State.command
  split
  · split
    · split
      · exact s.refuse_kept _ _
      · rename_i hc
        exact h hc
    · exact s.refuse_kept _ _
  · exact .refl s

theorem State.cmdAssignRoom_kept (t : Target) (room group : Nat) (s : State) :
    BoundsKept s (s.cmdAssignRoom t room group) :=
  State.command_kept fun _ => BoundsKept.finish <|
    BoundsKept.trans (t := { s with management := { s.management with room := room, group := group } })
      { BoundsKept.refl s with } (State.requestSettings_kept _)

/-- A lane loaded holds no cell, and the block count is in its range (R7 check 3, R8). -/
theorem Lane.loaded_bounded (l : Lane) {stream kind package firstBlock blockCount watchCode : Nat}
    {keySlot : Option Nat} {c : LaneConfig}
    (h : laneConfigOf stream kind package keySlot firstBlock blockCount watchCode = some c) :
    Lane.bounded (l.loaded c) := by
  unfold laneConfigOf at h
  split at h
  · cases h
  · split at h
    · rename_i hr
      obtain ⟨-, -, -, -, hlow, hhigh, -⟩ := hr
      cases h
      exact ⟨hlow, hhigh, Nat.zero_le _⟩
    · cases h

theorem State.cmdLoadLane_kept (t : Target) (lane stream kind package : Nat) (keySlot : Option Nat)
    (firstBlock blockCount watchCode : Nat) (s : State) :
    BoundsKept s (s.cmdLoadLane t lane stream kind package keySlot firstBlock blockCount watchCode) := by
  refine State.command_kept fun _ => ?_
  unfold State.loadLane
  split
  · exact .refl s
  · rename_i c hc
    exact (s.setLane_kept lane fun _ => Lane.loaded_bounded _ hc).finish

theorem State.cmdSetLaneResponse_kept (t : Target) (lane response : Nat) (s : State) :
    BoundsKept s (s.cmdSetLaneResponse t lane response) := by
  refine State.command_kept fun _ => ?_
  unfold State.setResponse
  split
  · exact .refl s
  · exact (s.setLane_kept lane (Lane.respond_bounded _)).finish

theorem State.setKey_kept (slot : Nat) (p : Phase) (v : Option Word32) (s : State) :
    BoundsKept s (s.setKey slot p v) :=
  { BoundsKept.refl s with keys := fun h => by simpa [State.setKey] using h }

theorem State.cmdLoadKey_kept (t : Target) (slot phase : Nat) (key : Word32) (s : State) :
    BoundsKept s (s.cmdLoadKey t slot phase key) := by
  refine State.command_kept fun _ => ?_
  unfold State.loadKey
  split
  · exact .refl s
  · dsimp only
    split
    · exact s.setKey_kept _ _ _
    · refine BoundsKept.finish ((s.setKey_kept _ _ _).trans (State.mapLanes_kept (fun l h => ?_) _))
      split
      · exact Lane.bounded_of_shrunk (l := l) rfl (List.length_filterMap_le _ _) h
      · exact h

theorem State.cmdClearKey_kept (t : Target) (slot phase : Nat) (s : State) :
    BoundsKept s (s.cmdClearKey t slot phase) := by
  refine State.command_kept fun _ => ?_
  unfold State.clearKey
  split
  · exact .refl s
  · exact s.setKey_kept _ _ _

theorem State.cmdSetPackages_kept (t : Target) (set : Word32) (s : State) : BoundsKept s (s.cmdSetPackages t set) :=
  State.command_kept fun _ => BoundsKept.finish { BoundsKept.refl s with }

theorem State.setEntry_kept (i : Nat) (e : Option ChannelEntry) (s : State) : BoundsKept s (s.setEntry i e) :=
  { BoundsKept.refl s with channels := fun h => by simpa [State.setEntry] using h }

theorem State.retuned_kept (old new : ChannelEntry) (s : State) : BoundsKept s (s.retuned old new) := by
  have waits : ∀ u : State, BoundsKept u { u with composer := u.composer.awaitStart } := fun u =>
    u.composer_kept (by rw [Composer.awaitStart_eq]) (by rw [Composer.awaitStart_eq])
  unfold State.retuned
  dsimp only
  split
  · exact (s.untuneLanes_kept _ _).finish
  · exact ((((s.untuneLanes_kept _ _).trans (waits _)).trans (State.redecide_kept _)).trans (waits _)).trans
      (State.followOutput_kept _)

theorem State.dropRecords_kept (i : Nat) (old : ChannelEntry) (s : State) : BoundsKept s (s.dropRecords i old) := by
  unfold State.dropRecords
  dsimp only
  split
  · exact s.setNotice_kept _ _
  · exact (s.setNotice_kept _ _).trans (State.programmeChanged_kept _ _)

theorem State.loadChannel_kept (i : Nat) (new : Option (Option ChannelEntry)) (s : State) :
    BoundsKept s (s.loadChannel i new) := by
  unfold State.loadChannel
  split
  · exact .refl s
  · split
    · exact ((s.setEntry_kept _ _).trans (State.setNotice_kept _ _ _)).finish
    · split
      · split
        · exact .refl s
        · split
          · exact (s.setEntry_kept _ _).trans (State.retuned_kept _ _ _)
          · exact (s.setEntry_kept _ _).finish
      · rename_i e _ old _ _
        have dropped := (s.setEntry_kept i e).trans (State.dropRecords_kept i old _)
        refine BoundsKept.finish ?_
        split
        · exact dropped.trans (State.untune_kept _ _)
        · exact dropped

theorem State.cmdLoadChannel_kept (t : Target) (entry form number picture : Nat) (sound : Option Nat)
    (package cls pay : Nat) (s : State) :
    BoundsKept s (s.cmdLoadChannel t entry form number picture sound package cls pay) :=
  State.command_kept fun _ => s.loadChannel_kept _ _

theorem State.cmdLoadRatingMap_kept (t : Target) (classes : List Nat) (s : State) :
    BoundsKept s (s.cmdLoadRatingMap t classes) :=
  State.command_kept fun _ => BoundsKept.finish { BoundsKept.refl s with map := fun _ => by simp }

/-- A lowered F takes G with it (R61). -/
theorem State.withCeiling_kept (wide : Bool) (ceiling scope : Nat) (threshold : Option Nat) (s : State) :
    BoundsKept s { s with lock := s.lock.withCeiling wide ceiling scope threshold } :=
  { BoundsKept.refl s with ceiling := fun _ => Nat.min_le_right _ _ }

theorem State.cmdSetCeiling_kept (t : Target) (ceiling scope : Nat) (threshold : Option Nat) (s : State) :
    BoundsKept s (s.cmdSetCeiling t ceiling scope threshold) := by
  refine State.command_kept fun _ => BoundsKept.finish ?_
  have set := s.withCeiling_kept (targetWide t) ceiling scope threshold
  split
  · exact set.trans (State.requestSettings_kept _)
  · exact set

theorem State.cmdSetPin_kept (t : Target) (pin : Option PinDigits) (s : State) : BoundsKept s (s.cmdSetPin t pin) := by
  refine State.command_kept fun _ => BoundsKept.finish ?_
  have set : BoundsKept s { s with lock := { s.lock with pin := pin, entry := .idle } } := s.lock_kept rfl rfl le_rfl
  split
  · exact set.trans (State.closeWindow_kept _)
  · exact set

theorem State.cmdSetUnlockMinutes_kept (t : Target) (minutes : Nat) (s : State) :
    BoundsKept s (s.cmdSetUnlockMinutes t minutes) :=
  State.command_kept fun _ => BoundsKept.finish <|
    (s.lock_kept (l := { s.lock with unlockMinutes := minutes }) rfl rfl le_rfl).trans (State.requestSettings_kept _)

theorem State.cmdLoadPrice_kept (t : Target) (priceClass : Nat) (price : Half) (minutes seconds : Nat) (s : State) :
    BoundsKept s (s.cmdLoadPrice t priceClass price minutes seconds) :=
  State.command_kept fun _ => BoundsKept.finish { BoundsKept.refl s with prices := fun h => by simpa using h }

theorem State.cmdSetBilling_kept (t : Target) (enabled taxRate dayCap dayStart credit : Nat) (s : State) :
    BoundsKept s (s.cmdSetBilling t enabled taxRate dayCap dayStart credit) := by
  refine State.command_kept fun _ => BoundsKept.finish (BoundsKept.trans ?_ (State.requestSettings_kept _))
  exact { BoundsKept.refl s with }

theorem State.cmdSetCredit_kept (t : Target) (limit : Nat) (s : State) : BoundsKept s (s.cmdSetCredit t limit) :=
  State.command_kept fun _ => { BoundsKept.refl s with }

theorem State.cmdExtendRental_kept (t : Target) (record minutes : Nat) (s : State) :
    BoundsKept s (s.cmdExtendRental t record minutes) := by
  refine State.command_kept fun hc => BoundsKept.finish ((s.onRental_kept _ _).trans (State.push_kept _ _ ?_))
  show s.store.queue.length < 8
  unfold State.extendCheck at hc
  repeat' split at hc
  all_goals simp_all [FolioStore.queueFull]

theorem State.cmdCloseFolio_kept (t : Target) (folio force : Nat) (s : State) :
    BoundsKept s (s.cmdCloseFolio t folio force) := by
  refine State.command_kept fun _ => BoundsKept.finish (BoundsKept.trans ?_ (State.startClose_kept _))
  exact { BoundsKept.refl s with
          meters := fun _ => rfl
          service := fun _ => State.metersServe_of_free rfl
          ceiling := fun _ => le_rfl
          queue := fun h => by simp only [QueueBounded, FolioStore.closeTaken, List.length_take]; omega }

theorem State.setPosition_kept (k p : Nat) (x : SlatePosition) (s : State) : BoundsKept s (s.setPosition k p x) :=
  { BoundsKept.refl s with slates := fun h => by simpa [State.setPosition] using h }

theorem State.cmdLoadSlateHeader_kept (t : Target) (kind position : Nat) (f : SlateHeaderFields) (s : State) :
    BoundsKept s (s.cmdLoadSlateHeader t kind position f) := by
  refine State.command_kept fun _ => ?_
  unfold State.loadHeader
  split
  · exact .refl s
  · exact s.setPosition_kept _ _ _

theorem State.cmdLoadSlatePayload_kept (t : Target) (kind position sect : Nat) (bytes : List Byte) (s : State) :
    BoundsKept s (s.cmdLoadSlatePayload t kind position sect bytes) :=
  State.command_kept fun _ => s.setPosition_kept _ _ _

theorem State.cmdSetCutMode_kept (t : Target) (mode : Nat) (s : State) : BoundsKept s (s.cmdSetCutMode t mode) := by
  refine State.command_kept fun _ => ?_
  unfold State.setCutMode
  split
  · exact .refl s
  · rename_i m _
    have set : BoundsKept s (State.requestSettings { s with composer := { s.composer with cutMode := m } }) :=
      (s.composer_kept (c := { s.composer with cutMode := m }) rfl rfl).trans (State.requestSettings_kept _)
    refine BoundsKept.finish ?_
    split
    · exact set.trans (State.beginSlate_kept _)
    · exact set

theorem State.enqueue_kept (frames : List ReplyFrame) (s : State) : BoundsKept s (s.enqueue frames) :=
  { BoundsKept.refl s with }

theorem State.pollTaken_kept {answer : State → State} {s : State} (h : BoundsKept s (answer s)) :
    BoundsKept s (s.pollTaken answer) := by
  unfold State.pollTaken
  split
  · exact .refl s
  · split
    · exact s.enqueue_kept _
    · exact h

theorem State.answerRecords_kept (first count : Nat) (s : State) : BoundsKept s (s.answerRecords first count) := by
  unfold State.answerRecords
  dsimp only
  split
  · exact s.enqueue_kept _
  · exact ((s.enqueue_kept _).trans (State.requestRange_kept _ _ _)).finish

theorem State.answerLane_kept (i : Nat) (s : State) : BoundsKept s (s.answerLane i) := by
  unfold State.answerLane
  split
  · exact s.enqueue_kept _
  · exact s.enqueue_kept _

theorem State.cmdPollStatus_kept (t : Target) (s : State) : BoundsKept s (s.cmdPollStatus t) :=
  State.command_kept fun _ => State.pollTaken_kept (s.enqueue_kept _)

theorem State.cmdPollRecords_kept (t : Target) (first count : Nat) (s : State) :
    BoundsKept s (s.cmdPollRecords t first count) :=
  State.command_kept fun _ => State.pollTaken_kept (s.answerRecords_kept _ _)

theorem State.cmdPollLane_kept (t : Target) (lane : Nat) (s : State) : BoundsKept s (s.cmdPollLane t lane) :=
  State.command_kept fun _ => State.pollTaken_kept (s.answerLane_kept _)

theorem State.cmdClearNotices_kept (t : Target) (flags : Half) (s : State) : BoundsKept s (s.cmdClearNotices t flags) :=
  State.command_kept fun _ => { BoundsKept.refl s with }

theorem State.cmdSetNoticeMask_kept (t : Target) (flags : Half) (s : State) :
    BoundsKept s (s.cmdSetNoticeMask t flags) :=
  State.command_kept fun _ => { BoundsKept.refl s with }

theorem State.cmdUnknown_kept (t : Target) (s : State) : BoundsKept s (s.cmdUnknown t) :=
  State.command_kept fun _ => .refl s

/-- A SETTLE that passes its checks finds room in the queue (R193). -/
theorem State.cmdSettle_kept (t : Target) (folio through : Nat) (s : State) :
    BoundsKept s (s.cmdSettle t folio through) := by
  refine State.command_kept fun hc => BoundsKept.finish (State.push_kept _ _ ?_)
  unfold State.settleCheck at hc
  repeat' split at hc
  all_goals simp_all [FolioStore.queueFull]

/-! ## Power -/

/-- Standing values set G to the F they bring (R76). -/
theorem State.withStanding_kept (v : Standing) (s : State) : BoundsKept s (State.withStanding v s) :=
  { BoundsKept.refl s with ceiling := fun _ => le_rfl }

theorem FolioStore.resumedCloseOps_length (f : FolioStore) : f.resumedCloseOps.length ≤ 5 := by
  have h := List.length_filter_le (fun k => !(f.sector k).whollyErased) [0, 1, 2, 3]
  simp only [FolioStore.resumedCloseOps, List.length_append, List.length_map, List.length_cons, List.length_nil] at *
  omega

theorem State.resumeClose_kept (s : State) : BoundsKept s s.resumeClose := by
  have hlen := s.store.resumedCloseOps_length
  unfold State.resumeClose
  refine BoundsKept.trans ?_ (State.pushAll_kept _ _ ?_)
  · exact { BoundsKept.refl s with queue := fun _ => Nat.zero_le _ }
  · rw [List.length_nil]
    omega

/-- The scan's ADVANCEs leave room for the WRITE SETTINGS of a page that held none (R141). -/
theorem State.scanRecords_kept (s : State) : BoundsKept s s.scanRecords := by
  unfold State.scanRecords
  dsimp only
  refine BoundsKept.trans ?_ (State.pushAll_kept _ _ ?_)
  · exact { BoundsKept.refl s with queue := fun _ => Nat.zero_le _ }
  · cases s.store.page.validMark <;> simp

theorem State.scanned_kept (s : State) : BoundsKept s s.scanned := by
  have read : BoundsKept s (State.withStanding s.store.page.standing { s with store := { s.store with
      folio := s.store.scanFolio, fault := false, awaitingScan := false, resumed := false } }) :=
    BoundsKept.trans (t := { s with store := { s.store with
      folio := s.store.scanFolio, fault := false, awaitingScan := false, resumed := false } })
      { BoundsKept.refl s with } (State.withStanding_kept _ _)
  have queued : ∀ u : State, BoundsKept u (if u.store.page.closeMark then u.resumeClose else u.scanRecords) := by
    intro u
    split
    · exact u.resumeClose_kept
    · exact u.scanRecords_kept
  have restored : ∀ u : State, BoundsKept u (if u.store.restoreWaiting then
      State.restoreRentals { u with store := { u.store with restoreWaiting := false } } else u) := by
    intro u
    split
    · exact BoundsKept.trans (t := { u with store := { u.store with restoreWaiting := false } })
        { BoundsKept.refl u with } (State.restoreRentals_kept _)
    · exact .refl u
  exact ((read.trans (queued _)).trans (restored _)).finish

theorem State.cold_kept (s : State) : BoundsKept s s.cold where
  lanes _ := rfl
  areas _ l hl := by
    rw [List.eq_of_mem_replicate hl]
    exact rfl
  keys _ := rfl
  entries _ := rfl
  map _ := rfl
  ceiling _ := le_rfl
  meters _ := rfl
  service _ := State.metersServe_of_free rfl
  prices _ := rfl
  channels _ := rfl
  slates _ := rfl
  whole h := h
  queue _ := Nat.zero_le _

theorem State.powerRemoved_kept (programmed : Nat) (s : State) : BoundsKept s (s.powerRemoved programmed) := by
  have cut : BoundsKept s { s with store := s.store.cut programmed } := by
    unfold FolioStore.cut
    split
    · exact .refl s
    · exact s.programSteps_kept _ _
  exact (cut.trans (State.cold_kept _)).trans { BoundsKept.refl _ with }

theorem State.restart_kept (s : State) : BoundsKept s s.restart := by
  have cold := s.cold_kept.trans (State.withStanding_kept s.standing _)
  exact { cold with
          whole := id
          queue := fun h => by simp only [QueueBounded, State.restart, List.length_take]; omega }

theorem State.cmdRestart_kept (t : Target) (s : State) : BoundsKept s (s.cmdRestart t) :=
  State.command_kept fun _ => s.restart_kept

theorem State.scan_kept (s : State) : BoundsKept s s.scan := by
  unfold State.scan
  split
  · exact s.scanned_kept
  · exact .refl s

end Sys2Proof.Machine
end

section
/-!
PROOF. Cell intake, each command and each step keep the bounds, which settles O58; and the reset state meets every
invariant, which settles O60.
-/

namespace Sys2Proof.Machine

/-! ## Cell intake -/

theorem State.acceptCell_kept (i : Nat) (c : Cell) (s : State) : BoundsKept s (s.acceptCell i c) := by
  have accepted : BoundsKept s (s.setLane i ((s.lane i).accept (s.keySlot ((s.lane i).keySlot.getD 16))
      (s.tunedLane i) s.second s.intake.accepted c).1) := s.setLane_kept i (Lane.accept_bounded _ _ _ _ _)
  unfold State.acceptCell
  refine BoundsKept.finish ?_
  split
  · refine BoundsKept.trans ?_ (State.raise_kept _ _)
    exact accepted.trans { BoundsKept.refl _ with }
  · exact accepted.trans { BoundsKept.refl _ with }

/-- A command a cell carries keeps the bounds. -/
theorem State.runCommand_kept (i : Instr) (s : State) : BoundsKept s (s.runCommand i) := by
  cases i with
  | assignRoom t room group => exact s.cmdAssignRoom_kept t room group
  | restart t => exact s.cmdRestart_kept t
  | loadLane => exact s.cmdLoadLane_kept _ _ _ _ _ _ _ _ _
  | setLaneResponse t lane response => exact s.cmdSetLaneResponse_kept t lane response
  | loadKey t slot phase key => exact s.cmdLoadKey_kept t slot phase key
  | clearKey t slot phase => exact s.cmdClearKey_kept t slot phase
  | setPackages t set => exact s.cmdSetPackages_kept t set
  | loadChannel => exact s.cmdLoadChannel_kept _ _ _ _ _ _ _ _ _
  | loadRatingMap t classes => exact s.cmdLoadRatingMap_kept t classes
  | setCeiling t ceiling scope threshold => exact s.cmdSetCeiling_kept t ceiling scope threshold
  | setPin t pin => exact s.cmdSetPin_kept t pin
  | setUnlockMinutes t minutes => exact s.cmdSetUnlockMinutes_kept t minutes
  | loadPrice t cls price minutes seconds => exact s.cmdLoadPrice_kept t cls price minutes seconds
  | setBilling t enabled tax cap day credit => exact s.cmdSetBilling_kept t enabled tax cap day credit
  | setCredit t limit => exact s.cmdSetCredit_kept t limit
  | extendRental t record minutes => exact s.cmdExtendRental_kept t record minutes
  | closeFolio t folio force => exact s.cmdCloseFolio_kept t folio force
  | loadSlateHeader t kind position fields => exact s.cmdLoadSlateHeader_kept t kind position fields
  | loadSlatePayload t kind position sect bytes => exact s.cmdLoadSlatePayload_kept t kind position sect bytes
  | setCutMode t mode => exact s.cmdSetCutMode_kept t mode
  | pollStatus t => exact s.cmdPollStatus_kept t
  | pollRecords t first count => exact s.cmdPollRecords_kept t first count
  | pollLane t lane => exact s.cmdPollLane_kept t lane
  | settle t folio through => exact s.cmdSettle_kept t folio through
  | clearNotices t flags => exact s.cmdClearNotices_kept t flags
  | setNoticeMask t flags => exact s.cmdSetNoticeMask_kept t flags
  | unknownCommand t => exact s.cmdUnknown_kept t
  | _ => exact .refl s

theorem State.manage_kept (c : Cell) (s : State) : BoundsKept s (s.manage c) := by
  unfold State.manage
  split
  · exact .refl s
  · split
    · exact .refl s
    · split
      · split
        · exact s.runCommand_kept _
        · exact s.refuse_kept _ _
      · exact .refl s

theorem State.beaconCell_kept (c : Cell) (s : State) : BoundsKept s (s.beaconCell c) := by
  unfold State.beaconCell
  split
  · exact s.countDiscard_kept
  · exact s.beacon_kept _

theorem State.noticeCell_kept (c : Cell) (s : State) : BoundsKept s (s.noticeCell c) := by
  unfold State.noticeCell
  split
  · exact s.countDiscard_kept
  · exact s.notice_kept _ _

theorem State.route_kept (c : Cell) (s : State) : BoundsKept s (s.route c) := by
  unfold State.route
  split
  · split
    · exact s.acceptCell_kept _ c
    · exact .refl s
  · split
    · exact .refl s
    · split
      · exact s.manage_kept c
      · split
        · exact s.beaconCell_kept c
        · split
          · exact s.noticeCell_kept c
          · exact .refl s

theorem State.withIntake_kept (k : Intake) (s : State) : BoundsKept s (s.withIntake k) := { BoundsKept.refl s with }

theorem State.cellReceived_kept (bytes : List Byte) (s : State) : BoundsKept s (State.cellReceived bytes s) := by
  unfold State.cellReceived
  split
  · split
    · exact (s.withIntake_kept _).trans (State.route_kept _ _)
    · exact s.withIntake_kept _
  · exact .refl s

theorem State.syncSearch_kept (skipped : Nat) (bytes : List Byte) (s : State) :
    BoundsKept s (State.syncSearch skipped bytes s) := by
  unfold State.syncSearch
  split
  · split
    · dsimp only
      split
      · exact s.withIntake_kept _
      · exact (s.withIntake_kept _).trans (State.route_kept _ _)
    · exact s.withIntake_kept _
  · exact .refl s

/-! ## Commands and steps -/

/-- How a command ends: in a next state that keeps the bounds. -/
def EndsKept (s : State) (o : Host.Outcome State Fault Refusal) : Prop := ∃ t, o = .next t ∧ BoundsKept s t

theorem State.act_kept {f : State → State} (hf : ∀ s, BoundsKept s (f s)) (s : State) : EndsKept s (s.act f) := by
  refine ⟨_, rfl, ?_⟩
  split
  · exact s.catchUp_kept.trans (hf _)
  · exact .refl s

theorem State.takeEvent_kept (e : TickEvent) (s : State) : EndsKept s (s.takeEvent e) := by
  refine ⟨_, rfl, ?_⟩
  split
  · exact BoundsKept.trans (t := { s with due := s.due.erase e }) { BoundsKept.refl s with } (State.perform_kept _ e)
  · exact .refl s

theorem State.takeFrame_kept (code : Nat) (held : Bool) (s : State) : EndsKept s (s.takeFrame code held) := by
  refine State.act_kept (fun t => ?_) s
  split
  · exact t.frameTouches_kept code
  · exact t.keyFrame_kept code held

/-- A management command acts as a cell that carries it (log entry 14). -/
theorem exec_of_managed {c : Instr} {t : Target} {k : CommandKind} (h : c.managed = some (t, k)) (s : State) :
    exec c s = s.act (State.runCommand c) := by
  unfold Instr.managed at h
  split at h
  case h_28 => cases h
  all_goals rfl

/-- Every command keeps the bounds. -/
theorem exec_kept (c : Instr) (s : State) : EndsKept s (exec c s) := by
  cases hm : c.managed with
  | some tk => exact exec_of_managed hm s ▸ State.act_kept (State.runCommand_kept c) s
  | none =>
    cases c with
    | powerOn => exact ⟨_, rfl, s.cold_kept.trans (State.scanned_kept _)⟩
    | powerRemoved k =>
      refine ⟨_, rfl, ?_⟩
      split
      · exact s.powerRemoved_kept k
      · exact .refl s
    | syncSearch skipped bytes => exact State.act_kept (State.syncSearch_kept skipped bytes) s
    | cellReceived bytes => exact State.act_kept (State.cellReceived_kept bytes) s
    | outputSlot => exact State.act_kept State.outputSlot_kept s
    | localSecond => exact State.act_kept State.localSecond_kept s
    | streamLost i => exact s.takeEvent_kept (.streamLost i)
    | keyWaitExpiry i => exact s.takeEvent_kept (.keyWaitExpiry i)
    | programmeSwap n => exact s.takeEvent_kept (.programmeSwap n)
    | programmeEnd n => exact s.takeEvent_kept (.programmeEnd n)
    | pinEntryTimeout => exact s.takeEvent_kept .pinEntryTimeout
    | channelEntryTimeout => exact s.takeEvent_kept .channelEntryTimeout
    | cutAllowanceEnd => exact s.takeEvent_kept .cutAllowanceEnd
    | refusalExpiry => exact s.takeEvent_kept .refusalExpiry
    | compare i => exact s.takeEvent_kept (.compare i)
    | terminal i => exact s.takeEvent_kept (.terminal i)
    | extended i => exact s.takeEvent_kept (.extended i)
    | firstByteExpiry => exact State.act_kept State.expireFirstByte_kept s
    | framingError => exact State.act_kept State.keyError_kept s
    | badFrame => exact State.act_kept State.keyError_kept s
    | digit d held => exact s.takeFrame_kept d held
    | enter held => exact s.takeFrame_kept 10 held
    | chPlus held => exact s.takeFrame_kept 11 held
    | chMinus held => exact s.takeFrame_kept 12 held
    | buy held => exact s.takeFrame_kept 13 held
    | cancel held => exact s.takeFrame_kept 14 held
    | lock held => exact s.takeFrame_kept 15 held
    | rate held => exact s.takeFrame_kept 16 held
    | unassignedKeyCode code held => exact s.takeFrame_kept code held
    | timeBeacon time => exact State.act_kept (State.beacon_kept _) s
    | currentNotice fields => exact State.act_kept (State.notice_kept 0 fields) s
    | nextNotice fields => exact State.act_kept (State.notice_kept 1 fields) s
    | appendCompletes r => exact State.act_kept (State.completion_kept .append r) s
    | advanceCompletes r => exact State.act_kept (State.completion_kept .advance r) s
    | advanceRangeCompletes r => exact State.act_kept (State.completion_kept .advanceRange r) s
    | writeExtensionCompletes r => exact State.act_kept (State.completion_kept .writeExtension r) s
    | writeSettingsCompletes r => exact State.act_kept (State.completion_kept .writeSettings r) s
    | eraseSectorCompletes r => exact State.act_kept (State.completion_kept .eraseSector r) s
    | closeMarkCompletes r => exact State.act_kept (State.completion_kept .closeMark r) s
    | scan => exact State.act_kept State.scan_kept s
    | frameSent =>
      refine State.act_kept (fun t => ?_) s
      unfold State.frameSent
      split
      · exact .refl t
      · exact { BoundsKept.refl t with }
    | firstByteReceived byte => exact State.act_kept (State.keypadByte_kept byte) s
    | _ => cases hm

theorem step_kept {s t : State} (h : step s = .next t) : BoundsKept s t := by
  unfold step at h
  split at h
  · cases h
    exact .refl s
  · rename_i c rest _
    obtain ⟨u, hu, kept⟩ := exec_kept c { s with pending := rest }
    rw [hu] at h
    cases h
    exact BoundsKept.trans (t := { s with pending := rest }) { BoundsKept.refl s with } kept

/-- Settles O58: each bound is kept by every step, through BoundsKept. -/
theorem every_step_keeps_the_bounds : Obligations.every_step_keeps_the_bounds := by
  intro s t h
  have kept := step_kept h
  exact ⟨kept.sized, kept.areas, kept.queue, kept.service, kept.ceiling⟩

/-- Settles O60: each invariant is read off the reset state. -/
theorem reset_meets_the_invariants : Obligations.reset_meets_the_invariants := by
  refine ⟨rfl, ?_, ?_, ?_, State.metersServe_of_free rfl, le_rfl, rfl, ?_⟩
  · refine ⟨rfl, rfl, rfl, rfl, rfl, rfl, rfl, rfl, rfl, fun sec h => ?_⟩
    rw [List.eq_of_mem_replicate h]
    rfl
  · exact State.reset.cold_kept.areas fun l h => (List.eq_of_mem_replicate h ▸ rfl : Lane.bounded l)
  · decide
  · intro q h
    rw [List.mem_singleton.1 h]
    decide

end Sys2Proof.Machine
end

section
/-!
PROOF. Power-on and RESTART (O4, O7), and the header: its four checks, LOCKED and SEARCH (O8, O9, O10).
-/

namespace Sys2Proof.Machine

/-! ## Power-on and RESTART -/

/-- Queueing operations changes the store alone. -/
theorem State.pushAll_eq (ops : List StoreOp) (s : State) : s.pushAll ops = { s with store := (s.pushAll ops).store } :=
  congrArg (fun u : State => { u with store := (s.pushAll ops).store }) (s.pushAll_same ops).1

/-- What the scan finds changes the store alone, and no restoration waits that did not. -/
theorem State.scanQueued_eq (s : State) : ∃ f : FolioStore,
    (if s.store.page.closeMark then s.resumeClose else s.scanRecords) = { s with store := f }
      ∧ f.restoreWaiting = s.store.restoreWaiting := by
  have waiting : ∀ ops (u : State), (u.pushAll ops).store.restoreWaiting = u.store.restoreWaiting := fun ops u => by
    have h := congrArg FolioStore.restoreWaiting (u.pushAll_same ops).2
    exact h
  split
  · exact ⟨_, State.pushAll_eq _ _, waiting _ _⟩
  · exact ⟨_, State.pushAll_eq _ _, waiting _ _⟩

/-- With no channel tuned and no restoration waiting, the scan brings the page's standing settings into force and
changes the store (R141). -/
theorem State.scanned_eq {s : State} (untuned : s.composer.tuned = none) (idle : s.store.restoreWaiting = false) :
    ∃ f : FolioStore, s.scanned = { State.withStanding s.store.page.standing s with store := f } := by
  unfold State.scanned
  extract_lets _ s1 s2
  obtain ⟨f, hf, hw⟩ := s1.scanQueued_eq
  have h2 : s2 = { s1 with store := f } := hf
  have still : s2.store.restoreWaiting = false := (congrArg (·.store.restoreWaiting) h2).trans (hw.trans idle)
  refine ⟨f, ?_⟩
  rw [if_neg (by simp [still]), h2]
  refine State.finish_of_untuned _ ?_
  simp [State.tunedEntry, s1, State.withStanding, untuned]

/-- Settles O4: `State.scanned_eq` gives the state, and each value is read off it. -/
theorem power_on_values : Obligations.power_on_values := by
  intro s
  obtain ⟨f, hf⟩ := State.scanned_eq (s := s.cold) rfl rfl
  refine ⟨s.cold.scanned, rfl, ?_⟩
  rw [hf]
  repeat' apply And.intro
  all_goals rfl

/-- Settles O7: a RESTART meant for the room is taken, and each value is read off `State.restart`. -/
theorem restart_keeps_store_and_settings : Obligations.restart_keeps_store_and_settings := by
  rintro s n ⟨awake, addressed, accepted⟩
  refine ⟨s.restart, State.act_taken awake addressed accepted rfl, rfl, ?_⟩
  repeat' apply And.intro
  all_goals rfl

/-! ## The header -/

/-- A one-byte field is below 256. -/
theorem num_one_lt (bs : List Byte) (start : Nat) : num bs start 1 < 256 := by
  unfold num field
  cases bs.drop start with
  | nil => simp [natOf]
  | cons b _ => simpa [natOf] using b.isLt

theorem keyMarkOf_eq_none {n : Nat} (h : n < 4) : keyMarkOf n = none ↔ n = 3 := by
  interval_cases n <;> simp [keyMarkOf]

/-- Settles O8: a cell is read exactly where the key mark's code has a mark and the other three checks pass. -/
theorem header_damage_by_four_checks : Obligations.header_damage_by_four_checks := by
  intro bytes
  have code := keyMarkOf_eq_none (n := num bytes 3 1 / 64) (by have := num_one_lt bytes 3; omega)
  unfold cellOf
  dsimp only
  split
  · rename_i h
    simp [code.1 h]
  · rename_i mark h
    have hne : num bytes 3 1 / 64 ≠ 3 := fun x => by simp [code.2 x] at h
    simp only [ite_eq_right_iff, reduceCtorEq, imp_false, hne, or_false]
    rw [← Nat.not_le (a := num bytes 4 1)]
    tauto

/-- A good cell that no block has: a reserved or null stream, a scrambled service cell, or a programme stream that no
configured lane has (R4). -/
theorem State.route_discarded {s : State} {c : Cell}
    (h : 4080 ≤ c.stream ∧ (c.mark ≠ .clear ∨ c.stream < 4090 ∨ 4092 < c.stream)
      ∨ c.stream ≤ 4079 ∧ ∀ l ∈ s.lanes, l.configured = true → l.config.map (·.stream) ≠ some c.stream) :
    s.route c = s := by
  unfold State.route
  rcases h with ⟨high, h⟩ | ⟨low, h⟩
  · rw [if_neg (by omega)]
    split
    · rfl
    · rename_i clear
      rw [if_neg (by simp_all; omega), if_neg (by simp_all; omega), if_neg (by simp_all; omega)]
  · have none : s.laneOfStream c.stream = none := by
      unfold State.laneOfStream
      rw [List.findIdx?_eq_none_iff]
      intro l hl
      simpa using h l hl
    rw [if_pos low, none]

theorem exec_cellReceived {s : State} (bytes : List Byte) (awake : Awake s) :
    exec (.cellReceived bytes) s = .next (State.cellReceived bytes s) := State.act_awake _ s awake

theorem exec_syncSearch {s : State} (skipped : Nat) (bytes : List Byte) (awake : Awake s) :
    exec (.syncSearch skipped bytes) s = .next (State.syncSearch skipped bytes s) := State.act_awake _ s awake

/-- A good header in LOCKED: its cell is routed (R3). -/
theorem State.cellReceived_good {s : State} {bytes : List Byte} {c : Cell} (locked : s.intake.sync = .locked)
    (good : cellOf bytes = some c) :
    State.cellReceived bytes s = (s.withIntake (s.intake.checked true)).route c := by
  simp [State.cellReceived, locked, good]

/-- A damaged header in LOCKED (R3). -/
theorem State.cellReceived_damaged {s : State} {bytes : List Byte} (locked : s.intake.sync = .locked)
    (damaged : cellOf bytes = none) : State.cellReceived bytes s = s.withIntake (s.intake.checked false) := by
  simp [State.cellReceived, locked, damaged]

/-- A good header of a run that it does not complete (R2). -/
theorem State.syncSearch_early {s : State} {bytes : List Byte} {c : Cell} (skipped : Nat)
    (search : s.intake.sync = .search) (good : cellOf bytes = some c) (early : s.intake.goodRun < 2) :
    State.syncSearch skipped bytes s = s.withIntake (s.intake.searched skipped true) := by
  simp [State.syncSearch, search, good, early]

/-- The third good header of a run: its cell is routed (R2). -/
theorem State.syncSearch_third {s : State} {bytes : List Byte} {c : Cell} (skipped : Nat)
    (search : s.intake.sync = .search) (good : cellOf bytes = some c) (third : s.intake.goodRun = 2) :
    State.syncSearch skipped bytes s = (s.withIntake (s.intake.searched skipped true)).route c := by
  simp [State.syncSearch, search, good, third]

/-- A header that ends a run (R2). -/
theorem State.syncSearch_damaged {s : State} {bytes : List Byte} (skipped : Nat)
    (search : s.intake.sync = .search) (damaged : cellOf bytes = none) :
    State.syncSearch skipped bytes s = s.withIntake (s.intake.searched skipped false) := by
  simp [State.syncSearch, search, damaged]

/-- Settles O9: the three ways of a header in LOCKED are those of `Intake.checked`, and a discarded cell does
nothing. -/
theorem locked_header_drops_or_discards : Obligations.locked_header_drops_or_discards := by
  intro s bytes awake locked
  rw [exec_cellReceived bytes awake]
  refine ⟨fun damaged few => ?_, fun damaged many => ?_, fun c good discarded => ?_⟩
  · rw [State.cellReceived_damaged locked damaged]
    simp [State.withIntake, Intake.checked, few]
  · rw [State.cellReceived_damaged locked damaged]
    simp [State.withIntake, Intake.checked, Nat.not_lt.2 many]
  · rw [State.cellReceived_good locked good,
      State.route_discarded (s := s.withIntake (s.intake.checked true)) discarded]
    rfl

/-- Settles O10: the run's three good headers and its two ways to fail are those of `Intake.searched`. -/
theorem search_locks_on_third_good_header : Obligations.search_locks_on_third_good_header := by
  intro s skipped bytes awake search
  rw [exec_syncSearch skipped bytes awake]
  refine ⟨fun c good first => ?_, fun c good second => ?_, fun c good third null => ?_, fun damaged first => ?_,
    fun damaged later => ?_⟩
  · rw [State.syncSearch_early skipped search good (by omega)]
    simp [State.withIntake, Intake.searched, Intake.runStart, Intake.examined, first]
  · rw [State.syncSearch_early skipped search good (by omega)]
    simp [State.withIntake, Intake.searched, Intake.runStart, Intake.examined, second]
  · rw [State.syncSearch_third skipped search good third, State.route_discarded (.inl (by omega))]
    simp [State.withIntake, Intake.searched, Intake.examined, third]
  · rw [State.syncSearch_damaged skipped search damaged]
    simp [State.withIntake, Intake.searched, Intake.runStart, first]
  · rw [State.syncSearch_damaged skipped search damaged]
    simp [State.withIntake, Intake.searched, Intake.runStart, Nat.one_le_iff_ne_zero.1 later]

end Sys2Proof.Machine
end

section
/-!
PROOF. A cell accepted on a lane (O11, O12, O13): what its lane does with it, and what the part then shows.
-/

namespace Sys2Proof.Machine

/-! ## What the lane does -/

/-- A cell joins the newest end of its lane's area, a full area dropping its oldest cell (R16, R22, R36). -/
theorem Lane.place_eq {l : Lane} {cfg : LaneConfig} (c : AreaCell) (h : l.config = some cfg) : l.place c =
    { l with
      area := (if cfg.blockCount ≤ l.area.length then l.area.tail else l.area) ++ [c]
      overflowDrops := if cfg.blockCount ≤ l.area.length then countUp l.overflowDrops else l.overflowDrops } := by
  unfold Lane.place
  rw [h]
  dsimp only
  split <;> simp

/-- Placing a cell touches the area and the overflow drops alone. -/
theorem Lane.place_same (l : Lane) (c : AreaCell) :
    { l.place c with area := l.area, overflowDrops := l.overflowDrops } = l := by
  unfold Lane.place
  split
  · rfl
  · split <;> rfl

/-- The descrambler touches the area, the key status and the counts of misses and overflow drops alone. -/
theorem Lane.descramble_same (l : Lane) (keys : KeySlot) (tuned : Bool) (now : Word32) (order : Nat) (c : Cell) :
    { (l.descramble keys tuned now order c).1 with
      area := l.area, overflowDrops := l.overflowDrops, keyStatus := l.keyStatus, keyMisses := l.keyMisses } = l := by
  have placed : ∀ k a, { ({ l with keyStatus := k } : Lane).place a with
      area := l.area, overflowDrops := l.overflowDrops, keyStatus := l.keyStatus, keyMisses := l.keyMisses } = l :=
    fun k a => congrArg (fun x : Lane => { x with keyStatus := l.keyStatus, keyMisses := l.keyMisses })
      (Lane.place_same { l with keyStatus := k } a)
  have placedIf : ∀ b k a, { ({ l with keyStatus := k } : Lane).placeIf b a with
      area := l.area, overflowDrops := l.overflowDrops, keyStatus := l.keyStatus, keyMisses := l.keyMisses } = l := by
    intro b k a
    cases b with
    | true => exact placed k a
    | false => rfl
  unfold Lane.descramble
  split
  · split
    · exact placed l.keyStatus _
    · split <;> rfl
  · exact placedIf tuned l.keyStatus _
  · split
    · exact placed _ _
    · rfl
  · exact placedIf tuned .keyed _
  · rfl

/-- A scrambled cell on a clear lane: the lane enters BLOCK (R14). -/
theorem Lane.accept_fault {l : Lane} (keys : KeySlot) (tuned : Bool) (now : Word32) (order : Nat) {c : Cell}
    (hr : l.response ≠ .block) (hk : l.keySlot = none) (hm : c.mark ≠ .clear) :
    l.accept keys tuned now order c = ((l.counted c).toBlock, some .laneFault) := by
  unfold Lane.accept
  exact (if_neg hr).trans (if_pos ⟨hk, hm⟩)

/-- Any other cell on a lane that does not BLOCK reaches the descrambler (R15). -/
theorem Lane.accept_descrambles {l : Lane} (keys : KeySlot) (tuned : Bool) (now : Word32) (order : Nat) {c : Cell}
    (hr : l.response ≠ .block) (h : ¬ (l.keySlot = none ∧ c.mark ≠ .clear)) :
    l.accept keys tuned now order c = (l.counted c).descramble keys tuned now order c := by
  unfold Lane.accept
  exact (if_neg hr).trans (if_neg h)

/-- Unless it faults, a lane keeps its response, and its watch is ARMED with silence 0 exactly in PASS (R18). -/
theorem Lane.accept_watch {l : Lane} (keys : KeySlot) (tuned : Bool) (now : Word32) (order : Nat) {c : Cell}
    (h : ¬ (l.response ≠ .block ∧ l.keySlot = none ∧ c.mark ≠ .clear)) :
    let r := (l.accept keys tuned now order c).1
    r.response = l.response ∧ r.watch = (l.counted c).watch ∧ r.silence = (l.counted c).silence := by
  by_cases hr : l.response = .block
  · have hb : l.accept keys tuned now order c = (l.counted c, none) := if_pos hr
    rw [hb]
    exact ⟨rfl, rfl, rfl⟩
  · rw [Lane.accept_descrambles keys tuned now order hr fun x => h ⟨hr, x⟩]
    have same := Lane.descramble_same (l.counted c) keys tuned now order c
    have h1 := congrArg Lane.response same
    have h2 := congrArg Lane.watch same
    have h3 := congrArg Lane.silence same
    exact ⟨h1, h2, h3⟩

/-! ## What opens a cell -/

theorem Cell.opened_clear {c : Cell} (keys : KeySlot) (h : c.mark = .clear) : c.opened keys = some c := by
  simp [Cell.opened, h, KeyMark.phase]

theorem Cell.opened_phase {c : Cell} {p : Phase} (keys : KeySlot) (h : c.mark.phase = some p) :
    c.opened keys = (keys.phase p).map c.descrambled := by
  simp [Cell.opened, h]

theorem Lane.keySlot_eq {l : Lane} {cfg : LaneConfig} (h : l.config = some cfg) : l.keySlot = cfg.keySlot := by
  simp [Lane.keySlot, h]

/-! ## What the part does -/

/-- What lane i does with a cell that is accepted on it in s, and the notice it raises (R15). -/
def State.handled (s : State) (i : Nat) (c : Cell) : Lane × Option NoticeFlag :=
  (s.lane i).accept (s.keySlot ((s.lane i).keySlot.getD 16)) (s.tunedLane i) s.second s.intake.accepted c

/-- t is s after lane i has handled the cell c and the view decision has been taken afresh: under a slate the cells that
a tuned lane in PASS then offers are gone (R15, R168). -/
structure CellTaken (s t : State) (i : Nat) (c : Cell) : Prop where
  lane : { t.lane i with area := (s.handled i c).1.area } = (s.handled i c).1
  kept : s.tunedLane i = false ∨ ¬ OnSlate t ∨ (s.handled i c).1.response ≠ .pass →
    (t.lane i).area = (s.handled i c).1.area
  discarded : s.tunedLane i = true → OnSlate t → (s.handled i c).1.response = .pass →
    (t.lane i).area = (s.handled i c).1.area.dropWhile fun a => !a.held
  others : ∀ j, j ≠ i → { t.lane j with area := (s.lane j).area } = s.lane j
  flags : t.reply.flags = match (s.handled i c).2 with
    | some f => s.reply.flags ||| f.set
    | none => s.reply.flags
  sync : t.intake.sync = .locked
  damage : t.intake.damageCount = s.intake.damageCount
  keys : t.keys = s.keys
  notices : t.notices = s.notices
  management : t.management = s.management
  keypad : t.keypad = s.keypad
  second : t.second = s.second
  packages : t.packages = s.packages

/-- The handling of an accepted cell before the view decision is taken. -/
theorem State.acceptCell_eq (i : Nat) (c : Cell) (s : State) : ∃ u : State, s.acceptCell i c = u.finish
    ∧ u.lanes = s.lanes.set i (s.handled i c).1
    ∧ u.intake = { s.intake with accepted := s.intake.accepted + 1 }
    ∧ u.reply.flags = (match (s.handled i c).2 with
      | some f => s.reply.flags ||| f.set
      | none => s.reply.flags)
    ∧ { u with lanes := s.lanes, intake := s.intake, reply := s.reply } = s := by
  refine ⟨_, rfl, ?_⟩
  unfold State.handled
  split <;> simp [State.setLane, State.raise, Reply.withFlags, *]

/-- A cell taken by the lane its stream number matches. -/
theorem State.acceptCell_taken {s : State} {i : Nat} (c : Cell) (k : Intake) (hi : i < s.lanes.length)
    (locked : k.sync = .locked) (damage : k.damageCount = s.intake.damageCount)
    (accepted : k.accepted = s.intake.accepted) : CellTaken s ((s.withIntake k).acceptCell i c) i c := by
  obtain ⟨u, hu, lanes, intake, flags, same⟩ := State.acceptCell_eq i c (s.withIntake k)
  have handled : (s.withIntake k).handled i c = s.handled i c := by
    unfold State.handled
    rw [show (s.withIntake k).intake.accepted = s.intake.accepted from accepted]
    rfl
  rw [handled] at lanes flags
  have done := u.finish_redecided
  have hlane : ∀ j, u.lane j = if i = j then (s.handled i c).1 else s.lane j := by
    intro j
    rw [State.lane_of_lanes (s := s.setLane i (s.handled i c).1) lanes, State.lane_setLane]
    by_cases h : i = j
    · rw [if_pos ⟨h, h ▸ hi⟩, if_pos h]
    · rw [if_neg fun x => h x.1, if_neg h]
  have hi' := hlane i
  rw [if_pos rfl] at hi'
  have tuned : u.tunedLane i = s.tunedLane i := by
    have hc := congrArg State.composer same
    change u.composer = s.composer at hc
    exact State.tunedLane_congr (State.tunedEntry_congr (by rw [hc]) (by rw [hc])) i
  have keys := congrArg State.keys same
  have notices := congrArg State.notices same
  have management := congrArg State.management same
  have keypad := congrArg State.keypad same
  have second := congrArg State.second same
  have packages := congrArg State.packages same
  rw [hu]
  refine
    { lane := hi' ▸ done.lanes i
      kept := fun h => ?_
      discarded := fun ht ho hp => ?_
      others := fun j hj => ?_
      flags := by rw [done.reply]; exact flags
      sync := by rw [done.intake, intake]; exact locked
      damage := by rw [done.intake, intake]; exact damage
      keys := done.keys.trans keys
      notices := done.notices.trans notices
      management := done.management.trans management
      keypad := done.keypad.trans keypad
      second := done.second.trans second
      packages := done.packages.trans packages }
  · by_cases ho : s.tunedLane i = true ∧ OnSlate u.finish
    · rw [done.discarded i (tuned.trans ho.1) ho.2, hi']
      refine if_neg ?_
      rcases h with h | h | h
      · rw [ho.1] at h
        cases h
      · exact absurd ho.2 h
      · exact h
    · rw [done.undisturbed i ?_, hi']
      rw [tuned]
      by_cases ht : s.tunedLane i = true
      · exact .inr fun x => ho ⟨ht, x⟩
      · exact .inl (by simpa using ht)
  · rw [done.discarded i (tuned.trans ht) ho, hi']
    exact if_pos hp
  · have h := done.lanes j
    rw [hlane j, if_neg (Ne.symm hj)] at h
    exact h

/-- A good cell, in LOCKED or as the one that completes a search, is routed from an intake moved past it (R2, R3). -/
theorem exec_routes {s : State} {bytes : List Byte} {c : Cell} {cmd : Instr} (awake : Awake s)
    (good : cellOf bytes = some c)
    (h : (s.intake.sync = .locked ∧ cmd = Instr.cellReceived bytes)
      ∨ (s.intake.sync = .search ∧ s.intake.goodRun = 2 ∧ ∃ k, cmd = .syncSearch k bytes)) :
    ∃ k : Intake, exec cmd s = .next ((s.withIntake k).route c) ∧ k.sync = .locked
      ∧ k.damageCount = s.intake.damageCount ∧ k.accepted = s.intake.accepted := by
  rcases h with ⟨locked, rfl⟩ | ⟨search, third, skipped, rfl⟩
  · refine ⟨s.intake.checked true, ?_, locked, rfl, rfl⟩
    rw [exec_cellReceived bytes awake, State.cellReceived_good locked good]
  · refine ⟨s.intake.searched skipped true, ?_, ?_⟩
    · rw [exec_syncSearch skipped bytes awake, State.syncSearch_third skipped search good third]
    simp [Intake.searched, third]

/-- A cell whose stream number a lane matches is taken by that lane. -/
theorem exec_takes_cell {s : State} {bytes : List Byte} {c : Cell} {i : Nat} {cmd : Instr} (awake : Awake s)
    (good : cellOf bytes = some c) (low : c.stream ≤ 4079) (lane : s.laneOfStream c.stream = some i)
    (h : (s.intake.sync = .locked ∧ cmd = Instr.cellReceived bytes)
      ∨ (s.intake.sync = .search ∧ s.intake.goodRun = 2 ∧ ∃ k, cmd = .syncSearch k bytes)) :
    ∃ t, exec cmd s = .next t ∧ CellTaken s t i c := by
  obtain ⟨k, hk, locked, damage, accepted⟩ := exec_routes awake good h
  have routed : (s.withIntake k).route c = (s.withIntake k).acceptCell i c := by
    unfold State.route
    rw [if_pos low, show (s.withIntake k).laneOfStream c.stream = some i from lane]
  exact ⟨_, hk, routed ▸ State.acceptCell_taken c k (State.laneOfStream_facts lane).1 locked damage accepted⟩

end Sys2Proof.Machine
end

section
/-!
PROOF. What an accepted cell does to its lane, its counts and its area (O11), a scrambled cell on a clear lane (O12),
and a cell on a scrambled lane by its key status (O13).
-/

namespace Sys2Proof.Machine

/-! ## The descrambler by key status (R31, R32, R35) -/

section Descramble

variable {l : Lane} {keys : KeySlot} (tuned : Bool) (now : Word32) (order : Nat) {c : Cell}

theorem Lane.descramble_keyed_open {d : Cell} (hk : l.keyStatus = .keyed) (ho : c.opened keys = some d) :
    l.descramble keys tuned now order c =
      (l.placeIf tuned { cell := d, held := false, order := order }, none) := by
  simp [Lane.descramble, hk, ho]

theorem Lane.descramble_keyed_absent_tuned {p : Phase} (hk : l.keyStatus = .keyed) (hp : c.mark.phase = some p)
    (ho : c.opened keys = none) :
    l.descramble keys true now order c =
      (({ l with keyStatus := .keywait now (l.keySlot.getD 0) p } : Lane).place
        { cell := c, held := true, order := order }, none) := by
  simp [Lane.descramble, hk, hp, ho]

theorem Lane.descramble_keyed_absent_untuned (hk : l.keyStatus = .keyed) (ho : c.opened keys = none) :
    l.descramble keys false now order c = ({ l.missed with keyStatus := .keyless }, some .keyMiss) := by
  simp [Lane.descramble, hk, ho]

theorem Lane.descramble_wait_tuned {start : Word32} {k : Nat} {p : Phase} (hk : l.keyStatus = .keywait start k p) :
    l.descramble keys true now order c = (l.place { cell := c, held := true, order := order }, none) := by
  simp [Lane.descramble, hk]

theorem Lane.descramble_keyless_open {d : Cell} (hk : l.keyStatus = .keyless) (ho : c.opened keys = some d) :
    l.descramble keys tuned now order c =
      (({ l with keyStatus := .keyed } : Lane).placeIf tuned { cell := d, held := false, order := order }, none) := by
  simp [Lane.descramble, hk, ho]

theorem Lane.descramble_keyless_absent (hk : l.keyStatus = .keyless) (ho : c.opened keys = none) :
    l.descramble keys tuned now order c = (l.missed, none) := by
  simp [Lane.descramble, hk, ho]

end Descramble

/-! ## The lane an accepted cell leaves -/

/-- What the area and the overflow drops of lane l are once the cell d has joined it (R16, R22, R36). -/
def Lane.joined (l : Lane) (cfg : LaneConfig) (d : Cell) (held : Bool) (order : Nat) : List AreaCell × Nat :=
  let full := cfg.blockCount ≤ l.area.length
  ((if full then l.area.tail else l.area) ++ [{ cell := d, held := held, order := order }],
    if full then countUp l.overflowDrops else l.overflowDrops)

theorem Lane.place_joined {l : Lane} {cfg : LaneConfig} (d : Cell) (held : Bool) (order : Nat)
    (h : l.config = some cfg) : l.place { cell := d, held := held, order := order } =
      { l with area := (l.joined cfg d held order).1, overflowDrops := (l.joined cfg d held order).2 } :=
  Lane.place_eq _ h

/-- In t, lane i has the area xs: without the cells that are not held, where the arbiter discards them under a slate
(R168). -/
def AreaLeft (s t : State) (i : Nat) (xs : List AreaCell) : Prop :=
  (s.tunedLane i = false ∨ ¬ OnSlate t ∨ (s.lane i).response = .hold → (t.lane i).area = xs)
    ∧ (s.tunedLane i = true → OnSlate t → (s.lane i).response = .pass →
      (t.lane i).area = xs.dropWhile fun a => !a.held)

section Taken

variable {s t : State} {i : Nat} {c : Cell}

/-- A field other than the area is as the lane's handling leaves it. -/
theorem CellTaken.field {α : Type} (taken : CellTaken s t i c) (f : Lane → α)
    (hf : ∀ l xs, f { l with area := xs } = f l) : f (t.lane i) = f (s.handled i c).1 := by
  rw [← hf (t.lane i) (s.handled i c).1.area, taken.lane]

theorem State.handled_descrambles (hr : (s.lane i).response ≠ .block)
    (h : ¬ ((s.lane i).keySlot = none ∧ c.mark ≠ .clear)) :
    s.handled i c = ((s.lane i).counted c).descramble (s.keySlot ((s.lane i).keySlot.getD 16)) (s.tunedLane i)
      s.second s.intake.accepted c :=
  Lane.accept_descrambles _ _ _ _ hr h

/-- The area a lane that does not fault has in t, from the one its handling of the cell leaves. -/
theorem CellTaken.areaLeft (taken : CellTaken s t i c)
    (h : ¬ ((s.lane i).response ≠ .block ∧ (s.lane i).keySlot = none ∧ c.mark ≠ .clear)) :
    AreaLeft s t i (s.handled i c).1.area := by
  obtain ⟨response, -, -⟩ := Lane.accept_watch (s.keySlot ((s.lane i).keySlot.getD 16)) (s.tunedLane i) s.second
    s.intake.accepted h
  have response : (s.handled i c).1.response = (s.lane i).response := response
  refine ⟨fun x => taken.kept (x.imp id (Or.imp id fun hold => ?_)), fun ht ho hp =>
    taken.discarded ht ho (response.trans hp)⟩
  rw [response, hold]
  decide

end Taken

/-! ## O11 -/

theorem Lane.discontinuities_eq (l : Lane) (c : Cell) : (match l.expected with
      | some q => if q = c.seq then l.discontinuities else countUp l.discontinuities
      | none => l.discontinuities) =
    if l.expected.any (fun q => q != c.seq) then countUp l.discontinuities else l.discontinuities := by
  cases l.expected with
  | none => rfl
  | some q => by_cases h : q = c.seq <;> simp [h]

/-- A clear cell opens as it is, and one whose phase is present as its key recovers it (R29, R30). -/
theorem State.opened_of {s : State} {l : Lane} {cfg : LaneConfig} {c d : Cell} (hc : l.config = some cfg)
    (h : c.mark = .clear ∧ d = c ∨ ∃ slot p key, cfg.keySlot = some slot ∧ c.mark.phase = some p
      ∧ s.keyOf slot p = some key ∧ d = c.descrambled key) :
    c.opened (s.keySlot (l.keySlot.getD 16)) = some d := by
  rcases h with ⟨clear, rfl⟩ | ⟨slot, p, key, hs, hp, hk, rfl⟩
  · exact Cell.opened_clear _ clear
  · rw [Cell.opened_phase _ hp, Lane.keySlot_eq hc, hs]
    exact congrArg (Option.map c.descrambled) hk

/-- Settles O11: the counts by `Lane.accept_counts`, the watch by `Lane.accept_watch`, the area by the descrambler's
case of a KEYED lane that can recover the cell. -/
theorem accepted_cell_counts_and_checks_sequence : Obligations.accepted_cell_counts_and_checks_sequence := by
  intro s bytes c i awake good low lane cmd route l blocks
  obtain ⟨t, step, taken⟩ := exec_takes_cell awake good low lane route
  obtain ⟨accepted, discontinuities, expected, config⟩ := Lane.accept_counts (s.lane i)
    (s.keySlot ((s.lane i).keySlot.getD 16)) (s.tunedLane i) s.second s.intake.accepted c
  refine ⟨t, step, (taken.field Lane.accepted fun _ _ => rfl).trans accepted,
    ((taken.field Lane.discontinuities fun _ _ => rfl).trans discontinuities).trans (Lane.discontinuities_eq l c),
    (taken.field Lane.expected fun _ _ => rfl).trans expected,
    (taken.field Lane.config fun _ _ => rfl).trans config, ?_, taken.others, taken.sync, taken.damage, taken.keys,
    taken.notices, taken.management, taken.keypad, taken.second, taken.packages, ?_⟩
  · intro h
    obtain ⟨response, watch, silence⟩ := Lane.accept_watch (s.keySlot ((s.lane i).keySlot.getD 16)) (s.tunedLane i)
      s.second s.intake.accepted h
    have watch := (taken.field Lane.watch fun _ _ => rfl).trans watch
    have silence := (taken.field Lane.silence fun _ _ => rfl).trans silence
    refine ⟨(taken.field Lane.response fun _ _ => rfl).trans response, fun hp => ?_, fun hp => ?_⟩
    · exact ⟨watch.trans (if_pos hp), silence.trans (if_pos hp)⟩
    · exact ⟨watch.trans (if_neg hp), silence.trans (if_neg hp)⟩
  · intro cfg d hr hc keyed opens full area
    have clear : ¬ (l.keySlot = none ∧ c.mark ≠ .clear) := by
      rintro ⟨none, scrambled⟩
      rcases opens with ⟨clear, -⟩ | ⟨slot, p, key, slotIs, -⟩
      · exact scrambled clear
      · rw [Lane.keySlot_eq hc, slotIs] at none
        cases none
    have left := taken.areaLeft fun h => clear h.2
    have handled : s.handled i c = ((l.counted c).placeIf (s.tunedLane i)
        { cell := d, held := false, order := s.intake.accepted }, none) := by
      rw [State.handled_descrambles hr clear]
      exact Lane.descramble_keyed_open _ _ _ keyed (State.opened_of hc opens)
    have status := taken.field Lane.keyStatus fun _ _ => rfl
    have drops := taken.field Lane.overflowDrops fun _ _ => rfl
    cases ht : s.tunedLane i with
    | false =>
      rw [handled, ht] at left status drops
      exact ⟨status.trans keyed, fun _ => ⟨left.1 (.inl ht), drops⟩, fun h => Bool.noConfusion h⟩
    | true =>
      have joined : (l.counted c).placeIf true { cell := d, held := false, order := s.intake.accepted } = _ :=
        Lane.place_joined d false s.intake.accepted (cfg := cfg) hc
      rw [handled, ht, joined] at left status drops
      exact ⟨status.trans keyed, fun h => Bool.noConfusion h,
        fun _ => ⟨fun h => left.1 (.inr h), left.2 ht, drops⟩⟩

/-- Settles O12: the lane's fault (`Lane.accept_fault`), untouched by the view decision since it is in BLOCK. -/
theorem scrambled_cell_blocks_a_clear_lane : Obligations.scrambled_cell_blocks_a_clear_lane := by
  intro s bytes c i awake good low lane response clear scrambled cmd route
  obtain ⟨t, step, taken⟩ := exec_takes_cell awake good low lane route
  have handled : s.handled i c = (((s.lane i).counted c).toBlock, some .laneFault) :=
    Lane.accept_fault _ _ _ _ response clear scrambled
  have block : (s.handled i c).1 = ((s.lane i).counted c).toBlock := by rw [handled]
  have whole : t.lane i = ((s.lane i).counted c).toBlock := by
    have same := taken.lane
    rwa [← taken.kept (.inr (.inr (by rw [block]; exact Response.noConfusion))), block] at same
  have flags := taken.flags
  rw [handled] at flags
  exact ⟨t, step, by rw [whole]; exact ⟨rfl, rfl, rfl, rfl, rfl, rfl, rfl, rfl, rfl, flags⟩⟩

/-- Settles O13: the descrambler's case of each key status, then what the arbiter leaves of the area. -/
theorem absent_phase_waits_tuned_misses_untuned : Obligations.absent_phase_waits_tuned_misses_untuned := by
  intro s bytes c i slot cfg awake good low lane response config slotIs cmd route l absent opens
  obtain ⟨t, step, taken⟩ := exec_takes_cell awake good low lane route
  have keySlot : l.keySlot = some slot := (Lane.keySlot_eq config).trans slotIs
  have scrambledLane : ¬ (l.keySlot = none ∧ c.mark ≠ .clear) := fun h => by simp [keySlot] at h
  have handled := State.handled_descrambles response scrambledLane
  rw [show s.lane i = l from rfl, keySlot] at handled
  have left := taken.areaLeft fun h => scrambledLane h.2
  have status := taken.field Lane.keyStatus fun _ _ => rfl
  have drops := taken.field Lane.overflowDrops fun _ _ => rfl
  have misses := taken.field Lane.keyMisses fun _ _ => rfl
  have flags := taken.flags
  have closed : ∀ p, c.mark.phase = some p → s.keyOf slot p = none → c.opened (s.keySlot slot) = none := by
    intro p hp hk
    rw [Cell.opened_phase _ hp]
    exact congrArg (Option.map c.descrambled) hk
  refine ⟨t, step, ?_, ?_, ?_, ?_, ?_⟩
  · intro p keyed hp hk tuned
    have waits := Lane.descramble_keyed_absent_tuned (l := l.counted c) s.second s.intake.accepted keyed hp
      (closed p hp hk)
    rw [Lane.place_joined (l := { l.counted c with keyStatus := .keywait s.second ((l.counted c).keySlot.getD 0) p })
      (cfg := cfg) c true s.intake.accepted config] at waits
    rw [handled, tuned, show (some slot).getD 16 = slot from rfl, waits] at left status drops misses flags
    refine ⟨status.trans ?_, misses, flags, left, drops⟩
    exact congrArg (fun k => KeyStatus.keywait s.second (k.getD 0) p) keySlot
  · rintro keyed ⟨p, hp, hk⟩ untuned
    have miss := Lane.descramble_keyed_absent_untuned (l := l.counted c) s.second s.intake.accepted keyed
      (closed p hp hk)
    rw [handled, untuned, show (some slot).getD 16 = slot from rfl, miss] at left status drops misses flags
    exact ⟨status, misses, ⟨left, drops⟩, flags⟩
  · intro start k p waiting tuned
    have holds := Lane.descramble_wait_tuned (l := l.counted c) (keys := s.keySlot slot) (c := c) s.second
      s.intake.accepted waiting
    rw [Lane.place_joined (l := l.counted c) (cfg := cfg) c true s.intake.accepted config] at holds
    rw [handled, tuned, show (some slot).getD 16 = slot from rfl, holds] at left status drops misses flags
    exact ⟨status, misses, flags, left, drops⟩
  · intro d keyless opening
    have opened : c.opened (s.keySlot (l.keySlot.getD 16)) = some d :=
      State.opened_of config (opening.imp id fun ⟨p, key, h⟩ => ⟨slot, p, key, slotIs, h⟩)
    rw [keySlot] at opened
    have opens := Lane.descramble_keyless_open (l := l.counted c) (s.tunedLane i) s.second s.intake.accepted keyless
      opened
    rcases Bool.eq_false_or_eq_true (s.tunedLane i) with tuned | tuned
    · rw [tuned] at opens
      have joined := Lane.place_joined (l := { l.counted c with keyStatus := .keyed }) (cfg := cfg) d false
        s.intake.accepted config
      rw [handled, tuned, opens, Lane.placeIf, if_pos rfl, joined] at left status drops misses flags
      exact ⟨status, misses, flags, fun _ => ⟨left, drops⟩, fun h => Bool.noConfusion (tuned.symm.trans h)⟩
    · rw [tuned] at opens
      rw [handled, tuned, opens] at left status drops misses flags
      exact ⟨status, misses, flags, fun h => Bool.noConfusion (tuned.symm.trans h), fun _ => ⟨left, drops⟩⟩
  · rintro keyless ⟨p, hp, hk⟩
    have miss := Lane.descramble_keyless_absent (l := l.counted c) (s.tunedLane i) s.second s.intake.accepted keyless
      (closed p hp hk)
    rw [handled, show (some slot).getD 16 = slot from rfl, miss] at left status drops misses flags
    exact ⟨status.trans keyless, misses, flags, left, drops⟩

end Sys2Proof.Machine
end

section
/-!
PROOF. Service cells by their payload layouts (O14).
-/

namespace Sys2Proof.Machine

/-! ## Numbers in a payload (R196) -/

theorem num_zero (p : List Byte) (a : Nat) : num p a 0 = 0 := rfl

theorem natOf_lt (bs : List Byte) : natOf bs < 256 ^ bs.length := by
  induction bs using List.reverseRecOn with
  | nil => decide
  | append_singleton xs b ih =>
    rw [natOf_append, List.length_append, List.length_singleton, pow_succ]
    have := b.isLt
    omega

theorem num_lt (p : List Byte) (a w : Nat) : num p a w < 256 ^ w :=
  (natOf_lt _).trans_le (Nat.pow_le_pow_right (by decide) (List.length_take_le _ _))

/-- A byte of a field that reaches the end of the payload. -/
theorem num_one (p : List Byte) {a : Nat} (h : a < p.length) : num p a 1 = (p.getD a 0).toNat := by
  rw [num_succ p a 0 h, num_zero, Nat.add_zero, Nat.mul_zero, Nat.zero_add]

/-- A byte beyond the end of the payload reads 0. -/
theorem num_one_beyond (p : List Byte) {a : Nat} (h : p.length ≤ a) : num p a 1 = 0 := by
  simp [num, field, List.drop_eq_nil_of_le h, natOf]

/-- A number cut short by the end of the payload carries no more bytes than are there. -/
theorem num_lt_of_short (p : List Byte) (a w : Nat) : num p a w < 256 ^ (p.length - a) :=
  (natOf_lt _).trans_le (Nat.pow_le_pow_right (by decide) (by simp [field]))

/-- Four bytes of 0xFF are the PIN field that means UNSET (R196). -/
theorem pinOf_eq (p : List Byte) : pinOf p =
    if num p 8 1 = 255 ∧ num p 9 1 = 255 ∧ num p 10 1 = 255 ∧ num p 11 1 = 255 then none
    else some { d1 := num p 8 1, d2 := num p 9 1, d3 := num p 10 1, d4 := num p 11 1 } := by
  refine ite_congr (propext ?_) (fun _ => rfl) (fun _ => rfl)
  by_cases h : 11 < p.length
  · have b8 := num_one p (a := 8) (by omega)
    have b9 := num_one p (a := 9) (by omega)
    have b10 := num_one p (a := 10) (by omega)
    have b11 := num_one p h
    have n2 : num p 8 2 = 256 * num p 8 1 + (p.getD 9 0).toNat := num_succ p 8 1 (by omega)
    have n3 : num p 8 3 = 256 * num p 8 2 + (p.getD 10 0).toNat := num_succ p 8 2 (by omega)
    have n4 : num p 8 4 = 256 * num p 8 3 + (p.getD 11 0).toNat := num_succ p 8 3 (by omega)
    have := (p.getD 8 0).isLt
    have := (p.getD 9 0).isLt
    have := (p.getD 10 0).isLt
    have := (p.getD 11 0).isLt
    omega
  · have short := num_lt_of_short p 8 4
    have few : 256 ^ (p.length - 8) ≤ 256 ^ 3 := Nat.pow_le_pow_right (by decide) (by omega)
    have beyond := num_one_beyond p (a := 11) (by omega)
    omega

/-! ## The service routes (R4) -/

section Routes

variable {s : State} {c : Cell}

theorem State.route_manage (clear : c.mark = .clear) (h : c.stream = 4090) : s.route c = s.manage c := by
  simp [State.route, clear, h]

theorem State.route_beacon (clear : c.mark = .clear) (h : c.stream = 4091) : s.route c = s.beaconCell c := by
  simp [State.route, clear, h]

theorem State.route_notice (clear : c.mark = .clear) (h : c.stream = 4092) : s.route c = s.noticeCell c := by
  simp [State.route, clear, h]

end Routes

/-! ## Management cells (R176, R178) -/

/-- The target a payload's head carries (section 12.2). -/
theorem targetOf_eq {p : List Byte} {t : Target} (h : num p 0 1 = 0 ∧ t = .all ∨ num p 0 1 = 1 ∧ t = .group (num p 1 6)
    ∨ num p 0 1 = 2 ∧ t = .room (num p 1 6) ∨ num p 0 1 = 3 ∧ t = .unit (num p 1 6)) : targetOf p = some t := by
  rcases h with ⟨kind, rfl⟩ | ⟨kind, rfl⟩ | ⟨kind, rfl⟩ | ⟨kind, rfl⟩ <;> simp [targetOf, kind]

theorem targetOf_unknown {p : List Byte} (h : 4 ≤ num p 0 1) : targetOf p = none := by
  obtain ⟨k, hk⟩ := Nat.exists_eq_add_of_le' h
  simp [targetOf, hk]

theorem commandKindOf_unknown {n : Nat} (h : 23 ≤ n) : commandKindOf n = none := by
  obtain ⟨k, rfl⟩ := Nat.exists_eq_add_of_le' h
  rfl

section Management

variable {s : State} {c : Cell} {t : Target}

/-- A management cell too short for a target, or with an unknown kind of target, changes nothing (R176). -/
theorem State.manage_untargeted (h : c.length < 7 ∨ 4 ≤ num c.payload 0 1) : s.manage c = s := by
  unfold State.manage
  split
  · rfl
  · rw [targetOf_unknown (by omega)]

theorem State.manage_elsewhere (long : 7 ≤ c.length) (target : targetOf c.payload = some t)
    (away : s.addressed t = false) : s.manage c = s := by
  simp [State.manage, Nat.not_lt.2 long, target, away]

/-- The command of a cell that addresses the room acts (R178). -/
theorem State.manage_command {i : Instr} (long : 7 ≤ c.length) (target : targetOf c.payload = some t)
    (here : s.addressed t = true) (h : decodeCell t c.length c.payload = .inl i) : s.manage c = s.runCommand i := by
  simp [State.manage, Nat.not_lt.2 long, target, here, h]

/-- A cell that addresses the room and leaves no command is refused RANGE (R178). -/
theorem State.manage_refused {k : CommandKind} (long : 7 ≤ c.length) (target : targetOf c.payload = some t)
    (here : s.addressed t = true) (h : decodeCell t c.length c.payload = .inr k) :
    s.manage c = s.refuse k .range := by
  simp [State.manage, Nat.not_lt.2 long, target, here, h]

end Management

/-- A command no code names is refused RANGE (R178). -/
theorem State.cmdUnknown_refused {s : State} {t : Target} (here : s.addressed t = true) :
    s.cmdUnknown t = s.refuse .unknown .range :=
  State.command_refused (check := fun _ => some .range) _ here rfl rfl

section Decoder

variable {t : Target} {length : Nat} {p : List Byte}

theorem decodeCell_unknown (h : length = 7 ∨ 23 ≤ num p 7 1) : decodeCell t length p = .inl (.unknownCommand t) := by
  unfold decodeCell
  split
  · rfl
  · rw [commandKindOf_unknown (by omega)]

theorem decodeCell_short {k : CommandKind} (long : 8 ≤ length) (code : commandKindOf (num p 7 1) = some k)
    (short : length < 8 + parameterLength p k) : decodeCell t length p = .inr k := by
  simp [decodeCell, code, short, show length ≠ 7 by omega]

/-- A cell long enough for its command carries the command of its layout. -/
theorem decodeCell_long {k : CommandKind} {i : Instr} (code : commandKindOf (num p 7 1) = some k)
    (long : 8 + parameterLength p k ≤ length) (h : instrOf t p k = some i) : decodeCell t length p = .inl i := by
  simp [decodeCell, code, Nat.not_lt.2 long, h, show length ≠ 7 by omega]

/-- A code that leaves no command is refused, whatever the cell's length (R178). -/
theorem decodeCell_none {k : CommandKind} (long : 8 ≤ length) (code : commandKindOf (num p 7 1) = some k)
    (h : instrOf t p k = none) : decodeCell t length p = .inr k := by
  simp [decodeCell, code, h, show length ≠ 7 by omega]

end Decoder

/-! ## The commands whose payload says more than their code (section 12.2) -/

theorem loadSlateOf_header {t : Target} {p : List Byte} (h : num p 10 1 = 0) :
    loadSlateOf t p = some (.loadSlateHeader t (num p 8 1) (num p 9 1) (headerFieldsOf p)) := by
  simp [loadSlateOf, h]

theorem loadSlateOf_unknown {t : Target} {p : List Byte} (h : 3 < num p 10 1) : loadSlateOf t p = none := by
  obtain ⟨k, hk⟩ := Nat.exists_eq_add_of_le' h
  simp [loadSlateOf, hk]

theorem loadSlateOf_payload {t : Target} {p : List Byte} (h1 : 1 ≤ num p 10 1) (h3 : num p 10 1 ≤ 3) :
    loadSlateOf t p =
      some (.loadSlatePayload t (num p 8 1) (num p 9 1) (num p 10 1 - 1) ((p.drop 11).take 40)) := by
  obtain ⟨k, hk⟩ := Nat.exists_eq_add_of_le' h1
  have : k < 3 := by omega
  simp [loadSlateOf, hk, this, field]

theorem pollOf_status {t : Target} {p : List Byte} (h : num p 8 1 = 0) : pollOf t p = some (.pollStatus t) := by
  simp [pollOf, h]

theorem pollOf_records {t : Target} {p : List Byte} (h : num p 8 1 = 1) :
    pollOf t p = some (.pollRecords t (num p 9 2) (num p 11 1)) := by
  simp [pollOf, h]

theorem pollOf_lane {t : Target} {p : List Byte} (h : num p 8 1 = 2) :
    pollOf t p = some (.pollLane t (num p 9 2)) := by
  simp [pollOf, h]

theorem pollOf_unknown {t : Target} {p : List Byte} (h : 2 < num p 8 1) : pollOf t p = none := by
  obtain ⟨k, hk⟩ := Nat.exists_eq_add_of_le' h
  simp [pollOf, hk]

/-! ## Programme notices (R49, R56) -/

section Notices

variable {s : State} {f : NoticeFields} (slot : Nat)

theorem State.notice_unlisted (h : s.entryIndex f.channel.toNat = none) : s.notice slot f = s := by
  simp [State.notice, h]

variable {slot}

/-- A notice of a listed channel whose slot code is neither current nor next is counted (R56). -/
theorem State.notice_other_slot (code : 1 < slot) (h : s.entryIndex f.channel.toNat ≠ none) :
    s.notice slot f = s.countDiscard := by
  obtain ⟨i, hi⟩ := Option.ne_none_iff_exists'.1 h
  simp [State.notice, hi, code]

end Notices

/-! ## O14 -/

/-- What stands for an addressed management cell whose code is this: its command acts as its own row where the cell is
long enough for the parameters, and is refused RANGE where it is not (R178). -/
theorem management_row {s past : State} {c : Cell} {t : Target} {cmd : Instr} (awake : Awake past)
    (step : exec cmd s = .next (past.manage c)) (long : 7 ≤ c.length) (target : targetOf c.payload = some t)
    (here : past.addressed t = true) {code parameters : Nat} {k k' : CommandKind} {i : Instr}
    (names : commandKindOf code = some k) (needs : parameterLength c.payload k = parameters)
    (carries : instrOf t c.payload k = some i) (managed : i.managed = some (t, k')) (has : 8 ≤ c.length)
    (codeIs : num c.payload 7 1 = code) :
    (8 + parameters ≤ c.length → exec cmd s = exec i past)
      ∧ (c.length < 8 + parameters → exec cmd s = .next (past.refuse k .range)) := by
  subst codeIs needs
  refine ⟨fun enough => ?_, fun short => ?_⟩
  · rw [step, exec_of_managed managed, State.act_awake _ _ awake,
      State.manage_command long target here (decodeCell_long names enough carries)]
  · rw [step, State.manage_refused long target here (decodeCell_short has names short)]

/-- Settles O14: the intake each command leaves, then the route of the service stream, row by row of section 12.2. -/
theorem management_cell_acts_or_is_discarded : Obligations.management_cell_acts_or_is_discarded := by
  intro s bytes c cmd intake awake good clear arrival past counted n opt acts refused
  have pastAwake : Awake past := awake
  have step : exec cmd s = .next (past.route c) := by
    rcases arrival with ⟨locked, rfl, rfl⟩ | ⟨search, third, ⟨skipped, rfl⟩, rfl⟩
    · rw [exec_cellReceived bytes awake, State.cellReceived_good locked good]
      rfl
    · rw [exec_syncSearch skipped bytes awake, State.syncSearch_third skipped search good third]
      simp [past, State.withIntake, Intake.searched, Intake.examined, third]
  refine ⟨num_zero c.payload, num_succ c.payload, fun stream => ?_, fun stream => ?_, fun stream => ?_⟩
  · rw [State.route_manage clear stream] at step
    refine ⟨fun h => by rw [step, State.manage_untargeted h], fun t kind long => ?_⟩
    have target := targetOf_eq kind
    refine ⟨fun away => step.trans (congrArg _ (State.manage_elsewhere long target away)), fun here => ?_⟩
    intro row
    have listed : ∀ {code parameters : Nat} {k k' : CommandKind} {i : Instr}, commandKindOf code = some k →
        parameterLength c.payload k = parameters → instrOf t c.payload k = some i → i.managed = some (t, k') →
        row code parameters k i := management_row pastAwake step long target here
    have none : ∀ {code : Nat} {k : CommandKind}, commandKindOf code = some k → instrOf t c.payload k = Option.none →
        8 ≤ c.length → n 7 1 = code → refused k := by
      intro code k names carries has codeIs
      subst codeIs
      exact step.trans (congrArg _ (State.manage_refused long target here (decodeCell_none has names carries)))
    refine ⟨fun h => ?unknown, listed rfl rfl rfl rfl, listed rfl rfl rfl rfl, listed rfl rfl rfl rfl,
      listed rfl rfl rfl rfl, listed rfl rfl rfl rfl, listed rfl rfl rfl rfl, listed rfl rfl rfl rfl,
      listed rfl rfl rfl rfl, listed rfl rfl rfl rfl, listed rfl rfl rfl rfl,
      listed rfl rfl (congrArg (fun d => some (Instr.setPin t d)) (pinOf_eq c.payload)) rfl,
      listed rfl rfl rfl rfl, listed rfl rfl rfl rfl, listed rfl rfl rfl rfl, listed rfl rfl rfl rfl,
      listed rfl rfl rfl rfl, listed rfl rfl rfl rfl,
      fun sect => listed rfl (if_pos sect) (loadSlateOf_header sect) rfl,
      fun low high => listed rfl (if_neg (Nat.ne_of_gt low)) (loadSlateOf_payload low high) rfl,
      fun has code sect => none rfl (loadSlateOf_unknown sect) has code, listed rfl rfl rfl rfl,
      fun form => listed rfl rfl (pollOf_status form) rfl, fun form => listed rfl rfl (pollOf_records form) rfl,
      fun form => listed rfl rfl (pollOf_lane form) rfl,
      fun has code form => none rfl (pollOf_unknown form) has code, listed rfl rfl rfl rfl, listed rfl rfl rfl rfl,
      listed rfl rfl rfl rfl⟩
    case unknown =>
      exact step.trans (congrArg _ ((State.manage_command (s := past) long target here (decodeCell_unknown h)).trans
        (State.cmdUnknown_refused here)))
  · rw [State.route_beacon clear stream] at step
    refine ⟨fun short => ?_, fun long => ?_⟩
    · rw [step]
      exact congrArg _ (if_pos short)
    · have whole : (BitVec.ofNat 32 (n 0 4)).toNat = num c.payload 0 4 :=
        Nat.mod_eq_of_lt (num_lt c.payload 0 4)
      have acting : past.beaconCell c = past.beacon (num c.payload 0 4) := if_neg (Nat.not_lt.2 long)
      refine step.trans ((congrArg _ acting).trans ?_)
      rw [← whole]
      exact (State.act_awake _ _ pastAwake).symm
  · rw [State.route_notice clear stream] at step
    intro f
    have channel : f.channel.toNat = n 0 2 := Nat.mod_eq_of_lt (num_lt c.payload 0 2)
    have taken : 14 ≤ c.length → exec cmd s = .next (past.notice (n 2 1) f) := fun long =>
      step.trans (congrArg _ (if_neg (Nat.not_lt.2 long)))
    refine ⟨fun short => step.trans (congrArg _ (if_pos short)), fun long code => ?_, fun long code => ?_,
      fun long code unlisted => ?_, fun long code listed => ?_⟩
    · exact (taken long).trans ((congrArg _ (congrArg (State.notice · f past) code)).trans
        (State.act_awake _ _ pastAwake).symm)
    · exact (taken long).trans ((congrArg _ (congrArg (State.notice · f past) code)).trans
        (State.act_awake _ _ pastAwake).symm)
    · exact (taken long).trans (congrArg _ (State.notice_unlisted _ (channel ▸ unlisted)))
    · exact (taken long).trans (congrArg _ (State.notice_other_slot code (channel ▸ listed)))

end Sys2Proof.Machine
end

section
/-!
PROOF. LOAD LANE and SET LANE RESPONSE (O18, O19).
-/

namespace Sys2Proof.Machine

/-! ## The checks of LOAD LANE (R7) -/

/-- The fields of a LOAD LANE are in range, and the configuration they carry (R7 check 3). -/
theorem laneConfigOf_inRange {stream kind package firstBlock blockCount watchCode : Nat} {keySlot : Option Nat}
    (h : stream ≤ 4079 ∧ kind ≤ 1 ∧ package ≤ 31 ∧ (∀ k, keySlot = some k → k ≤ 15) ∧ firstBlock ≤ 95
      ∧ 1 ≤ blockCount ∧ blockCount ≤ 16 ∧ watchCode ≤ 7) :
    laneConfigOf stream kind package keySlot firstBlock blockCount watchCode =
      some { stream := stream, kind := if kind = 0 then .picture else .sound, package := package, keySlot := keySlot,
             firstBlock := firstBlock, blockCount := blockCount, watchCode := watchCode } := by
  obtain ⟨hs, hk, hp, hslot, hf, h1, h16, hw⟩ := h
  have slots : keySlot.all (fun x => decide (x ≤ 15)) = true := by
    cases keySlot with
    | none => rfl
    | some x => simpa using hslot x rfl
  have kindOf : laneKindOf kind = some (if kind = 0 then .picture else .sound) := by
    obtain rfl | rfl : kind = 0 ∨ kind = 1 := by omega
    · rfl
    · rfl
  unfold laneConfigOf
  rw [kindOf]
  exact if_pos ⟨hs, hp, slots, hf, h1, h16, hw⟩

theorem laneConfigOf_outOfRange {stream kind package firstBlock blockCount watchCode : Nat} {keySlot : Option Nat}
    (h : ¬ (stream ≤ 4079 ∧ kind ≤ 1 ∧ package ≤ 31 ∧ (∀ k, keySlot = some k → k ≤ 15) ∧ firstBlock ≤ 95
      ∧ 1 ≤ blockCount ∧ blockCount ≤ 16 ∧ watchCode ≤ 7)) :
    laneConfigOf stream kind package keySlot firstBlock blockCount watchCode = none := by
  unfold laneConfigOf
  split
  · rfl
  · rename_i k hk
    refine if_neg fun ⟨hs, hp, slots, hf, h1, h16, hw⟩ => h ⟨hs, ?_, hp, fun x hx => ?_, hf, h1, h16, hw⟩
    · by_contra big
      obtain ⟨n, rfl⟩ := Nat.exists_eq_add_of_le' (Nat.lt_of_not_le big)
      cases hk
    · subst hx
      simpa using slots

section LoadLane

variable {s : State} {lane : Nat}

theorem State.loadLaneCheck_beyond (cfg : Option LaneConfig) (h : 24 ≤ lane) :
    s.loadLaneCheck lane cfg = some .range := if_pos h

theorem State.loadLaneCheck_busy (cfg : Option LaneConfig) (h : lane < 24)
    (busy : (s.lane lane).response = .pass ∨ (s.lane lane).response = .block) :
    s.loadLaneCheck lane cfg = some .busy :=
  (if_neg (Nat.not_le.2 h)).trans (if_pos busy)

variable (h : lane < 24) (free : (s.lane lane).response = .idle ∨ (s.lane lane).response = .hold)
include h free

/-- A lane in IDLE or HOLD may be loaded: what is left of the checks is the configuration's own (R7). -/
theorem State.loadLaneCheck_free : ¬ 24 ≤ lane
    ∧ ¬ ((s.lane lane).response = .pass ∨ (s.lane lane).response = .block) := by
  refine ⟨Nat.not_le.2 h, ?_⟩
  rcases free with free | free <;> simp [free]

theorem State.loadLaneCheck_range : s.loadLaneCheck lane none = some .range := by
  obtain ⟨low, free⟩ := State.loadLaneCheck_free h free
  simp [State.loadLaneCheck, low, free]

/-- Checks 4 to 7 of R7, as `LaneClash` says them. -/
theorem State.loadLaneCheck_config {c : LaneConfig} (bounded : AreasBounded s) (blocks : 1 ≤ c.blockCount) :
    (LaneClash s lane c → s.loadLaneCheck lane (some c) = some .conflict)
      ∧ (¬ LaneClash s lane c → s.loadLaneCheck lane (some c) = none) := by
  obtain ⟨low, free⟩ := State.loadLaneCheck_free h free
  unfold LaneClash
  rw [← State.laneConflict_iff s lane c bounded blocks, ← State.kindConflict_iff]
  by_cases pool : 96 < c.firstBlock + c.blockCount <;> by_cases area : s.laneConflict lane c = true <;>
    by_cases kind : s.kindConflict lane c.kind = true <;>
    simp [State.loadLaneCheck, low, free, pool, area, kind]

end LoadLane

/-- Settles O18: the checks in R7's order, then R8's effect. -/
theorem load_lane_checks_then_loads : Obligations.load_lane_checks_then_loads := by
  intro s t lane stream kind package keySlot firstBlock blockCount watchCode meant bounded cmd inRange c
  obtain ⟨awake, here, target⟩ := meant
  have refused {r : Reason} (h : s.loadLaneCheck lane
      (laneConfigOf stream kind package keySlot firstBlock blockCount watchCode) = some r) :
      exec cmd s = .next (s.refuse .loadLane r) := State.act_refused awake here target h
  refine ⟨fun h => refused (State.loadLaneCheck_beyond _ h), fun h busy => refused (State.loadLaneCheck_busy _ h busy),
    fun h free => ⟨fun out => refused ?_, fun range clash => refused ?_, fun range clear => ?_⟩⟩
  · rw [laneConfigOf_outOfRange out]
    exact State.loadLaneCheck_range h free
  · rw [laneConfigOf_inRange range]
    exact (State.loadLaneCheck_config h free bounded range.2.2.2.2.2.1).1 clash
  · have passed := (State.loadLaneCheck_config (c := c) h free bounded range.2.2.2.2.2.1).2 clear
    rw [← laneConfigOf_inRange range] at passed
    refine ⟨_, State.act_taken awake here target passed, ?_⟩
    rw [laneConfigOf_inRange range]
    exact State.finish_redecided _

/-! ## SET LANE RESPONSE (R9) -/

theorem responseOf_unknown {n : Nat} (h : 4 ≤ n) : responseOf n = none := by
  obtain ⟨k, rfl⟩ := Nat.exists_eq_add_of_le' h
  rfl

/-- A lane that leaves IDLE for HOLD clashes with another or it does not (R10). -/
theorem State.setResponseCheck_wake {s : State} {lane : Nat} {c : LaneConfig} (bounded : AreasBounded s)
    (h : lane < 24) (idle : (s.lane lane).response = .idle) (config : (s.lane lane).config = some c) :
    (AreaClash s lane c → s.setResponseCheck lane (some .hold) = some .conflict)
      ∧ (¬ AreaClash s lane c → s.setResponseCheck lane (some .hold) = none) := by
  have blocks : 1 ≤ c.blockCount := by
    have inPool := State.lane_bounded bounded lane
    unfold Lane.bounded at inPool
    rw [config] at inPool
    exact inPool.1
  rw [← State.laneConflict_iff s lane c bounded blocks]
  by_cases clash : s.laneConflict lane c = true <;> simp [State.setResponseCheck, Nat.not_le.2 h, idle, config, clash]

/-- A lane leaves for IDLE unless a channel entry names it (R13). -/
theorem State.setResponseCheck_release {s : State} {lane : Nat} (h : lane < 24)
    (other : (s.lane lane).response ≠ .idle) :
    s.setResponseCheck lane (some .idle) = if s.laneNamed lane then some .conflict else none := by
  unfold State.setResponseCheck
  rw [if_neg (Nat.not_le.2 h)]
  cases r : (s.lane lane).response with
  | idle => exact absurd r other
  | hold => rfl
  | pass => rfl
  | block => rfl

/-! What a change of response leaves of the lane: R9's table, row by row. -/

section Respond

variable {l : Lane}

theorem Lane.respond_same {r : Response} (h : l.response = r) : l.respond r = l := if_pos h

theorem Lane.respond_idle (h : l.response ≠ .idle) : l.respond .idle = l.toIdle := if_neg h

theorem Lane.respond_wake (h : l.response = .idle) : l.respond .hold = l.wake := by
  simp [Lane.respond, h]

theorem Lane.respond_hold (h : l.response = .pass ∨ l.response = .block) : l.respond .hold = l.toHold := by
  rcases h with h | h <;> simp [Lane.respond, h]

theorem Lane.respond_pass (h : l.response = .hold) : l.respond .pass = l.toPass := by
  simp [Lane.respond, h]

theorem Lane.respond_block (h : l.response = .hold ∨ l.response = .pass) : l.respond .block = l.toBlock := by
  rcases h with h | h <;> simp [Lane.respond, h]

end Respond

section SetResponse

variable {s : State} {t : Target} {lane response : Nat}

theorem setLaneResponse_refused {r : Reason} (meant : Meant s t .setLaneResponse)
    (h : s.setResponseCheck lane (responseOf response) = some r) :
    exec (.setLaneResponse t lane response) s = .next (s.refuse .setLaneResponse r) :=
  State.act_refused meant.1 meant.2.1 meant.2.2 h

theorem setLaneResponse_taken {r : Response} (meant : Meant s t .setLaneResponse) (code : responseOf response = some r)
    (h : s.setResponseCheck lane (some r) = none) :
    ∃ u, exec (.setLaneResponse t lane response) s = .next u
      ∧ Redecided (s.setLane lane ((s.lane lane).respond r)) u := by
  refine ⟨_, State.act_taken (check := fun s => s.setResponseCheck lane (responseOf response))
    (effect := State.setResponse lane (responseOf response)) meant.1 meant.2.1 meant.2.2 (by rw [code]; exact h), ?_⟩
  rw [code]
  exact State.finish_redecided _

end SetResponse

/-- Settles O19: R9's table, cell by cell. -/
theorem set_lane_response_table : Obligations.set_lane_response_table := by
  intro s t lane response meant bounded cmd l refused becomes
  have no {r : Reason} := setLaneResponse_refused (lane := lane) (response := response) (r := r) meant
  refine ⟨fun h => no ?_, fun h => ?_⟩
  · by_cases beyond : 24 ≤ lane
    · exact if_pos beyond
    · rw [responseOf_unknown (h.resolve_left beyond)]
      simp [State.setResponseCheck, beyond]
  have low : ¬ 24 ≤ lane := Nat.not_le.2 h
  have yes {r : Response} {l' : Lane} (code : responseOf response = some r)
      (check : s.setResponseCheck lane (some r) = none) (leaves : (s.lane lane).respond r = l') : becomes l' :=
    leaves ▸ setLaneResponse_taken meant code check
  have lane_eq : s.lane lane = l := rfl
  refine ⟨?_, ?_, ?_, ?_, ?_, ?_, ?_, ?_, ?_, ?_, ?_, ?_, ?_, ?_⟩
  · rintro rfl idle
    exact yes rfl (by simp [State.setResponseCheck, low, lane_eq, idle]) (Lane.respond_same idle)
  · rintro rfl other named
    exact no ((State.setResponseCheck_release h other).trans (if_pos named))
  · rintro rfl other free
    refine yes rfl ((State.setResponseCheck_release h other).trans (if_neg ?_)) (Lane.respond_idle other)
    simp [free]
  · rintro rfl hold
    exact yes rfl (by simp [State.setResponseCheck, low, lane_eq, hold]) (Lane.respond_same hold)
  · rintro rfl idle unset
    exact no (by simp [State.setResponseCheck, responseOf, low, lane_eq, idle, unset])
  · rintro c rfl idle config clash
    exact no ((State.setResponseCheck_wake bounded h idle config).1 clash)
  · rintro c rfl idle config clear
    exact yes rfl ((State.setResponseCheck_wake bounded h idle config).2 clear) (Lane.respond_wake idle)
  · rintro rfl active
    refine yes rfl ?_ (Lane.respond_hold active)
    rcases active with r | r <;> simp [State.setResponseCheck, low, lane_eq, r]
  · rintro rfl pass
    exact yes rfl (by simp [State.setResponseCheck, low, lane_eq, pass]) (Lane.respond_same pass)
  · rintro rfl hold
    exact yes rfl (by simp [State.setResponseCheck, low, lane_eq, hold]) (Lane.respond_pass hold)
  · rintro rfl away
    refine no ?_
    rcases away with r | r <;> simp [State.setResponseCheck, responseOf, low, lane_eq, r]
  · rintro rfl block
    exact yes rfl (by simp [State.setResponseCheck, low, lane_eq, block]) (Lane.respond_same block)
  · rintro rfl idle
    exact no (by simp [State.setResponseCheck, responseOf, low, lane_eq, idle])
  · rintro rfl unblocked
    refine yes rfl ?_ (Lane.respond_block unblocked)
    rcases unblocked with r | r <;> simp [State.setResponseCheck, low, lane_eq, r]

end Sys2Proof.Machine
end

section
/-!
PROOF. LOAD CHANNEL (O22).
-/

namespace Sys2Proof.Machine

/-! ## The entry a LOAD CHANNEL carries (R159 check 1) -/

section Carried

variable {number picture package cls pay : Nat} {sound : Option Nat}

theorem channelEntryOf_inRange (h : 1 ≤ number ∧ number ≤ 999 ∧ picture ≤ 23 ∧ (∀ x, sound = some x → x ≤ 23)
      ∧ package ≤ 31 ∧ cls ≤ 7 ∧ pay ≤ 1) :
    channelEntryOf 0 number picture sound package cls pay =
      some (some { number := number, picture := picture, sound := sound, package := package, defaultClass := cls,
                   pay := pay == 1 }) := by
  obtain ⟨h1, hn, hp, hs, hk, hc, hy⟩ := h
  have sounds : (sound.all fun x => decide (x ≤ 23)) = true := by
    cases sound with
    | none => rfl
    | some x => simpa using hs x rfl
  have pays : boolOf pay = some (pay == 1) := by
    obtain rfl | rfl : pay = 0 ∨ pay = 1 := by omega
    · rfl
    · rfl
  unfold channelEntryOf
  rw [pays]
  exact if_pos ⟨h1, hn, hp, sounds, hk, hc⟩

theorem channelEntryOf_outOfRange {form : Nat}
    (h : 1 < form ∨ form = 0 ∧ ¬ (1 ≤ number ∧ number ≤ 999 ∧ picture ≤ 23 ∧ (∀ x, sound = some x → x ≤ 23)
      ∧ package ≤ 31 ∧ cls ≤ 7 ∧ pay ≤ 1)) :
    channelEntryOf form number picture sound package cls pay = none := by
  rcases h with h | ⟨rfl, h⟩
  · obtain ⟨k, rfl⟩ := Nat.exists_eq_add_of_le' h
    rfl
  · unfold channelEntryOf
    cases pays : boolOf pay with
    | none => rfl
    | some p =>
      refine if_neg fun ⟨h1, hn, hpic, sounds, hk, hc⟩ => h ⟨h1, hn, hpic, fun x hx => ?_, hk, hc, ?_⟩
      · subst hx
        simpa using sounds
      · by_contra big
        obtain ⟨n, rfl⟩ := Nat.exists_eq_add_of_le' (Nat.lt_of_not_le big)
        cases pays

end Carried

/-! ## The checks (R159) -/

/-- A new entry clashes with the channel table or names a lane that is not of the kind it needs (R159 checks 2, 3). -/
def ChannelClash (s : State) (i : Nat) (e : ChannelEntry) : Prop :=
  (∃ j c, j ≠ i ∧ s.entryAt j = some c ∧ c.number = e.number)
    ∨ ¬ ((s.lane e.picture).response ≠ .idle ∧ (s.lane e.picture).config.map (·.kind) = some .picture)
    ∨ ∃ x, e.sound = some x ∧ ¬ ((s.lane x).response ≠ .idle ∧ (s.lane x).config.map (·.kind) = some .sound)

theorem State.channelCheck_range {s : State} {i : Nat} {new : Option (Option ChannelEntry)} (h : 47 < i ∨ new = none) :
    s.channelCheck i new = some .range := by
  unfold State.channelCheck
  split
  · rfl
  · rw [h.resolve_left ‹_›]

theorem State.channelCheck_empty {s : State} {i : Nat} (h : i ≤ 47) : s.channelCheck i (some none) = none :=
  if_neg (Nat.not_lt.2 h)

/-- A clash, as checks 2 and 3 of R159 find it. -/
theorem channelClash_iff (s : State) (i : Nat) (e : ChannelEntry) : ChannelClash s i e ↔
    (s.composer.channels.zipIdx.any fun p => p.2 != i && (p.1.any fun c => c.number == e.number)) = true
      ∨ ¬ (s.laneIs e.picture .picture && e.sound.all fun x => s.laneIs x .sound) = true := by
  unfold ChannelClash
  simp only [State.numberTaken_iff, ← State.laneIs_iff, Bool.and_eq_true, not_and_or, Option.all_eq_true, not_forall,
    exists_prop]

theorem State.channelCheck_entry {s : State} {i : Nat} {e : ChannelEntry} (h : i ≤ 47) :
    (ChannelClash s i e → s.channelCheck i (some (some e)) = some .conflict)
      ∧ (¬ ChannelClash s i e → s.channelCheck i (some (some e)) = none) := by
  rw [channelClash_iff, not_or, not_not]
  have checks : s.channelCheck i (some (some e)) = _ := if_neg (Nat.not_lt.2 h)
  rw [checks]
  refine ⟨fun clash => ?_, fun clear => (if_neg clear.1).trans (if_pos clear.2)⟩
  rcases clash with taken | lanes
  · exact if_pos taken
  · exact ite_eq_left_iff.2 fun _ => if_neg lanes

/-! ## What a LOAD CHANNEL does (R48, R159, R160) -/

section Effect

variable {s : State} {i : Nat} {old : ChannelEntry}

theorem State.loadChannel_vacant (e : Option ChannelEntry) (h : s.entryAt i = none) :
    s.loadChannel i (some e) = State.finish (State.setNotice i { current := none, next := none } (s.setEntry i e)) := by
  simp [State.loadChannel, h]

theorem State.loadChannel_same_number {n : ChannelEntry} (h : s.entryAt i = some old) (same : old.number = n.number) :
    s.loadChannel i (some (some n)) = if s.composer.tuned = some old.number then
      (s.setEntry i (some n)).retuned old n else State.finish (s.setEntry i (some n)) := by
  simp [State.loadChannel, h, same]

theorem State.loadChannel_other_number {e : Option ChannelEntry} (h : s.entryAt i = some old)
    (other : e.map (·.number) ≠ some old.number) :
    s.loadChannel i (some e) = State.finish (if s.composer.tuned = some old.number then
      ((s.setEntry i e).dropRecords i old).untune old else (s.setEntry i e).dropRecords i old) := by
  simp only [State.loadChannel, h]
  exact if_neg other

end Effect

/-- The entry written is the one its number finds, where no other entry has that number. -/
theorem State.entry_setEntry {s : State} {i : Nat} {e : ChannelEntry} (inTable : i < s.composer.channels.length)
    (alone : ∀ j c, j ≠ i → s.entryAt j = some c → c.number ≠ e.number) :
    (s.setEntry i (some e)).entry e.number = some e := by
  have found : (s.setEntry i (some e)).entryIndex e.number = some i := by
    unfold State.entryIndex State.setEntry
    rw [List.findIdx?_eq_some_iff_getElem]
    refine ⟨by simpa using inTable, by simp, fun j hj => ?_⟩
    rw [List.getElem_set_ne (Nat.ne_of_gt hj)]
    have apart := alone j
    cases at' : s.composer.channels[j]'(by omega) with
    | none => simp
    | some c => simpa using apart c (Nat.ne_of_lt hj) (by simp [State.entryAt, at', Nat.lt_trans hj inTable])
  unfold State.entry
  rw [found]
  simp [State.entryAt, State.setEntry, inTable]

section Exec

variable {s : State} {t : Target} {i form number picture package cls pay : Nat} {sound : Option Nat}

theorem loadChannel_refused {r : Reason} (meant : Meant s t .loadChannel)
    (h : s.channelCheck i (channelEntryOf form number picture sound package cls pay) = some r) :
    exec (.loadChannel t i form number picture sound package cls pay) s = .next (s.refuse .loadChannel r) :=
  State.act_refused meant.1 meant.2.1 meant.2.2 h

theorem loadChannel_taken {new : Option (Option ChannelEntry)} (meant : Meant s t .loadChannel)
    (carried : channelEntryOf form number picture sound package cls pay = new) (h : s.channelCheck i new = none) :
    exec (.loadChannel t i form number picture sound package cls pay) s = .next (s.loadChannel i new) := by
  subst carried
  exact State.act_taken meant.1 meant.2.1 meant.2.2 h

end Exec

/-! ## An entry rewritten under its own number with another picture lane (R160) -/

/-- The output state of a re-decided state that waited for a start mark, where the decision is to show. -/
theorem Redecided.still_waits {s w : State} {e : ChannelEntry} (done : Redecided s w) (tuned : s.tunedEntry = some e)
    (shows : (s.viewDecision e).1 = .show) (waits : s.composer.output = .waitingStart) :
    w.composer.output = .waitingStart := by
  have follows := done.output e tuned
  rw [shows] at follows
  by_cases same : s.composer.decision = some .show
  · exact (follows.kept same (.inl rfl)).trans waits
  · have shown := follows.shown rfl same
    rwa [waits] at shown

/-- Waiting for a start mark. -/
def State.awaiting (u : State) : State := { u with composer := u.composer.awaitStart }

theorem State.awaiting_eq (u : State) : u.awaiting =
    { u with composer := { u.composer with
      output := if u.composer.output = .showing then .waitingStart else u.composer.output } } :=
  congrArg (fun c => { u with composer := c }) u.composer.awaitStart_eq

theorem State.awaiting_composer (u : State) : u.awaiting.composer.channels = u.composer.channels
    ∧ u.awaiting.composer.tuned = u.composer.tuned ∧ u.awaiting.composer.decision = u.composer.decision := by
  rw [u.awaiting_eq]
  exact ⟨rfl, rfl, rfl⟩

/-- What the rewritten entry of the tuned channel leaves when its picture lane is another. -/
theorem State.retuned_facts {s : State} {old e : ChannelEntry} (moved : old.picture ≠ e.picture)
    (tuned : s.composer.tuned = some e.number) (found : s.entry e.number = some e) :
    ∃ w, Redecided (s.untuneLanes old (some e)).awaiting w ∧ s.retuned old e = w.awaiting
      ∧ w.awaiting.composer.channels = s.composer.channels ∧ w.awaiting.composer.tuned = some e.number
      ∧ w.awaiting.composer.decision = some ((s.untuneLanes old (some e)).viewDecision e).1
      ∧ w.awaiting.notices = s.notices ∧ w.awaiting.keypad = s.keypad
      ∧ (((s.untuneLanes old (some e)).viewDecision e).1 = .show → s.composer.output = .showing →
          w.awaiting.composer.output = .waitingStart) := by
  have eq := State.retuned_waits s old e moved
  have done := (s.untuneLanes old (some e)).awaiting.finish_redecided
  obtain ⟨channels, tunedTo, -⟩ := (s.untuneLanes old (some e)).awaiting_composer
  rw [(State.untuneLanes_keeps _ _ _).2.2.2.2.2.2.2.2.2.2.2.1] at channels tunedTo
  have entry : (s.untuneLanes old (some e)).awaiting.tunedEntry = some e := by
    have now : s.tunedEntry = some e := by rw [State.tunedEntry, tuned]; exact found
    exact (State.tunedEntry_congr tunedTo channels).trans now
  have decision : (s.untuneLanes old (some e)).awaiting.viewDecision e = (s.untuneLanes old (some e)).viewDecision e :=
    State.viewDecision_congr rfl rfl (State.awaiting_composer _).1
  have fixed := done.composer
  have fixedChannels := congrArg Composer.channels fixed
  have fixedTuned := congrArg Composer.tuned fixed
  refine ⟨_, done, eq, (State.awaiting_composer _).1.trans (fixedChannels.trans channels),
    (State.awaiting_composer _).2.1.trans (fixedTuned.trans (tunedTo.trans tuned)),
    (State.awaiting_composer _).2.2.trans ((done.decision e entry).trans (by rw [decision])), ?_, ?_,
    fun shows showing => ?_⟩
  · exact done.notices.trans (by simp [State.awaiting])
  · exact done.keypad.trans (by simp [State.awaiting])
  · have waits : (s.untuneLanes old (some e)).awaiting.composer.output = .waitingStart := by
      rw [State.awaiting_eq]
      simp [showing]
    have still := Redecided.still_waits done entry (by rw [decision]; exact shows) waits
    rw [State.awaiting_eq]
    simp [still]

/-! ## O22 -/

/-- Settles O22: the checks of R159, then the entry that is vacant, keeps its number or loses it. -/
theorem load_channel_checks_and_effect : Obligations.load_channel_checks_and_effect := by
  intro s t i form number picture sound package cls pay meant sized cmd inRange e is clash written blank left waits
  obtain ⟨-, -, -, -, -, -, size, -⟩ := sized
  have taken {new : Option (Option ChannelEntry)} := loadChannel_taken (i := i) (form := form) (number := number)
    (picture := picture) (sound := sound) (package := package) (cls := cls) (pay := pay) (new := new) meant
  have entered : form = 0 → inRange → i ≤ 47 → ¬ clash →
      exec cmd s = .next (s.loadChannel i (some (some e))) := by
    rintro rfl range low clear
    exact taken (channelEntryOf_inRange range) ((State.channelCheck_entry low).2 clear)
  have emptied : form = 1 → i ≤ 47 → exec cmd s = .next (s.loadChannel i (some none)) := by
    rintro rfl low
    exact taken rfl (State.channelCheck_empty low)
  refine ⟨fun h => ?_, fun low set range clash => ?_, fun low set range clear vacant => ?_, fun low empty vacant => ?_,
    fun old low set range clear held same => ?_, fun old low lost held => ?_⟩
  · exact loadChannel_refused meant (State.channelCheck_range (h.imp id channelEntryOf_outOfRange))
  · subst set
    refine loadChannel_refused meant ?_
    rw [channelEntryOf_inRange range]
    exact (State.channelCheck_entry low).1 clash
  · exact ⟨_, entered set range low clear, State.redecided_of_finish (State.loadChannel_vacant _ vacant)⟩
  · exact ⟨_, emptied empty low, State.redecided_of_finish (State.loadChannel_vacant _ vacant)⟩
  · have step := entered set range low clear
    rw [State.loadChannel_same_number held same] at step
    refine ⟨fun away => ?_, fun tuned => ?_⟩
    · rw [if_neg fun h => away (h.trans (congrArg some same))] at step
      exact ⟨_, step, State.finish_redecided _⟩
    · rw [if_pos (tuned.trans (congrArg some same.symm))] at step
      intro u
      refine ⟨State.untuneLanes_only _ _ _, fun j was now => ?_, fun j h => ?_, fun stays => ?_, fun moved => ?_⟩
      · exact (State.lane_untuneLanes _ _ _ j).trans (if_pos ⟨was, now⟩)
      · refine (State.lane_untuneLanes _ _ _ j).trans (if_neg fun ⟨was, now⟩ => ?_)
        rcases h with h | h
        · exact Bool.noConfusion (was.symm.trans h)
        · exact Bool.noConfusion (h.symm.trans now)
      · exact ⟨_, step, State.redecided_of_finish (if_pos stays)⟩
      · have found : (s.setEntry i (some e)).entry e.number = some e :=
          State.entry_setEntry (by omega) fun j c hj hc hn => clear (.inl ⟨j, c, hj, hc, hn⟩)
        obtain ⟨w, done, retuned, facts⟩ := State.retuned_facts (s := s.setEntry i (some e)) (e := e) moved tuned found
        have waits_eq : ∀ u, State.awaiting u = waits u := State.awaiting_eq
        rw [waits_eq] at done retuned facts
        exact ⟨w, _, step, done, retuned, retuned ▸ facts⟩
  · intro new
    have step : exec cmd s = .next (s.loadChannel i (some new)) ∧ new.map (·.number) ≠ some old.number := by
      rcases lost with empty | ⟨set, range, clear, other⟩
      · rw [show new = none from if_pos empty]
        exact ⟨emptied empty low, nofun⟩
      · rw [show new = some e from if_neg (by omega)]
        exact ⟨entered set range low clear, fun h => other (Option.some.inj h).symm⟩
    obtain ⟨step, other⟩ := step
    rw [State.loadChannel_other_number held other] at step
    obtain ⟨notices, same, silent, changed⟩ := (s.setEntry i new).dropRecords_facts i old
    have composer := congrArg State.composer same
    have rest := congrArg (fun x : State => { x with composer := s.composer }) same
    refine ⟨(s.setEntry i new).dropRecords i old, composer, notices, rest, silent,
      fun h => ProgrammeChanged.of_same (s' := s.setEntry i new) rfl rfl rfl (changed h), fun away => ?_,
      fun tuned => ?_⟩
    · rw [if_neg away] at step
      exact ⟨_, step, State.finish_redecided _⟩
    · rw [if_pos tuned] at step
      generalize (s.setEntry i new).dropRecords i old = u at step rest ⊢
      obtain ⟨unset, buying, named, unnamed, lock, unlocked, kept, only⟩ := u.untune_facts old
      have untuned : (u.untune old).tunedEntry = none := by
        rw [State.tunedEntry, unset]
        rfl
      rw [State.finish_of_untuned _ untuned] at step
      have noticesKept := congrArg State.notices only
      have storeKept := congrArg State.store only
      have metersKept := congrArg State.meters only
      have lockSame := congrArg State.lock rest
      change u.lock = s.lock at lockSame
      rw [lockSame] at lock kept
      have laneSame : ∀ j, u.lane j = s.lane j := State.lane_of_lanes (congrArg State.lanes rest :)
      refine ⟨_, step, unset, noticesKept, by rw [buying], by rw [buying], storeKept, metersKept,
        fun j h => (named j h).trans (congrArg Lane.untuned (laneSame j)), fun j h => (unnamed j h).trans (laneSame j),
        lock, unlocked, kept, ?_⟩
      have outside := congrArg (fun x : State => { x with
        composer := s.composer, notices := s.notices, buying := s.buying, meters := s.meters, store := s.store,
        lanes := s.lanes, lock := s.lock }) only
      have inside := congrArg (fun x : State => { x with
        composer := s.composer, lanes := s.lanes, lock := s.lock }) rest
      exact outside.trans inside

end Sys2Proof.Machine
end

section
/-!
PROOF. What a local second counts (O29), and the events it lists (O30).
-/

namespace Sys2Proof.Machine

/-! ## What a local second counts (R41, R42, R87, R18) -/

theorem exec_localSecond {s : State} (awake : Awake s) : exec .localSecond s = .next s.localSecond :=
  State.act_awake _ s awake

/-- Settles O29: `State.counted` field by field. -/
theorem local_second_counts : Obligations.local_second_counts := by
  intro s awake
  refine ⟨_, exec_localSecond awake, rfl, fun unset => ?_, fun h set low => ?_, fun top => ?_, rfl, fun i => ?_,
    fun i => ?_, ?_⟩
  · exact congrArg (Option.map hotelTick) unset
  · exact (congrArg (Option.map hotelTick) set).trans (congrArg some (if_pos low))
  · exact congrArg (Option.map hotelTick) top
  · exact ⟨fun armed => (s.lane_counted i).trans (if_pos armed), fun idle => (s.lane_counted i).trans (if_neg idle)⟩
  · intro counts
    have gate : s.meterCounts (s.meter i) = true ↔ counts := s.meterCounts_iff (s.meter i)
    exact ⟨fun h => (s.meter_counted i).trans (if_pos (gate.2 h)),
      fun h => (s.meter_counted i).trans (if_neg (mt gate.1 h))⟩
  · exact congrArg (fun due => { s with due := due }) awake.2.1.symm

/-! ## The events of a list with places -/

/-- What comes of a table's entries, each with its place. -/
theorem mem_filterMap_zipIdx {α β : Type} {xs : List α} {f : α × Nat → Option β} {b : β} :
    b ∈ xs.zipIdx.filterMap f ↔ ∃ i a, xs[i]? = some a ∧ f (a, i) = some b := by
  simp only [List.mem_filterMap, Prod.exists, List.mem_zipIdx_iff_getElem?]
  exact exists_comm

/-- What comes of a table's entries, where nothing comes of its default. -/
theorem mem_filterMap_zipIdx_getD {α β : Type} {xs : List α} {f : α × Nat → Option β} {b : β} (d : α)
    (absent : ∀ i, f (d, i) ≠ some b) : b ∈ xs.zipIdx.filterMap f ↔ ∃ i, f (xs.getD i d, i) = some b := by
  rw [mem_filterMap_zipIdx]
  refine exists_congr fun i => ?_
  rw [List.getD_eq_getElem?_getD]
  cases xs[i]? with
  | none => simp [absent]
  | some a => simp

/-! ## The events of the lanes (R19, R34) -/

theorem Lane.lossDue_iff (l : Lane) : l.lossDue = true ↔ l.response = .pass ∧ l.watch = .armed
    ∧ l.interval ≤ l.silence := by
  simp [Lane.lossDue, and_assoc]

theorem Lane.waitDue_iff (l : Lane) (now : Word32) : l.waitDue now = true ↔ ∃ start k p,
    l.keyStatus = .keywait start k p ∧ 3 ≤ elapsed start now := by
  unfold Lane.waitDue
  cases l.keyStatus <;> simp

theorem State.mem_lanesDue (s : State) (e : TickEvent) : e ∈ s.lanesDue ↔
    (∃ i, (s.lane i).lossDue = true ∧ TickEvent.streamLost i = e)
      ∨ ∃ i, (s.lane i).waitDue s.second = true ∧ TickEvent.keyWaitExpiry i = e := by
  unfold State.lanesDue
  rw [List.mem_append, mem_filterMap_zipIdx_getD Lane.initial (by simp [Lane.lossDue, Lane.initial]),
    mem_filterMap_zipIdx_getD Lane.initial (by simp [Lane.waitDue, Lane.initial])]
  simp only [Option.ite_none_right_eq_some, Option.some.injEq]
  rfl

/-! ## The events of the programmes (R52) -/

theorem NoticeEntry.due_iff (x : NoticeEntry) (n t : Nat) (e : TickEvent) : x.due n t = some e ↔
    ((∃ p, x.next = some p ∧ p.start ≤ t) ∧ TickEvent.programmeSwap n = e)
      ∨ (∃ c, x.current = some c ∧ c.stop ≤ t ∧ ∀ p, x.next = some p → t < p.start)
          ∧ TickEvent.programmeEnd n = e := by
  unfold NoticeEntry.due
  cases x.next with
  | none => cases x.current <;> simp
  | some p =>
    by_cases late : p.start ≤ t
    · simp [late, Nat.not_lt.2 late]
    · cases x.current <;> simp [late, Nat.lt_of_not_le late]

theorem State.mem_programmesDue {s : State} (sized : s.composer.channels.length = 48) (e : TickEvent) :
    e ∈ s.programmesDue ↔ ∃ i c h, s.entryAt i = some c ∧ s.notices.hotelTime = some h
      ∧ (s.noticeAt i).due c.number h = some e := by
  have inTable : ∀ {i c}, s.entryAt i = some c → i < 48 := by
    intro i c h
    by_contra beyond
    simp [State.entryAt, sized, Nat.le_of_not_lt beyond] at h
  unfold State.programmesDue State.programmeDue
  simp only [List.mem_filterMap, List.mem_range]
  refine exists_congr fun i => ⟨fun ⟨_, h⟩ => ?_, fun ⟨c, h, entry, time, due⟩ => ⟨inTable entry, ?_⟩⟩
  · cases entry : s.entryAt i with
    | none => simp [entry] at h
    | some c =>
      cases time : s.notices.hotelTime with
      | none => simp [entry, time] at h
      | some t => exact ⟨c, t, rfl, rfl, by simpa [entry, time] using h⟩
  · simpa [entry, time] using due

/-! ## The timeouts (R68, R111, R150, R167) -/

theorem State.mem_timeoutsDue (s : State) (e : TickEvent) : e ∈ s.timeoutsDue ↔
    (s.pinTimeoutDue = true ∧ e = .pinEntryTimeout) ∨ (s.channelTimeoutDue = true ∧ e = .channelEntryTimeout)
      ∨ (s.cutDue = true ∧ e = .cutAllowanceEnd) ∨ (s.refusalDue = true ∧ e = .refusalExpiry) := by
  unfold State.timeoutsDue
  simp only [List.mem_append, List.mem_ite_nil_right, List.mem_singleton, or_assoc]

theorem State.cutDue_iff (s : State) : s.cutDue = true ↔ ∃ start, s.composer.output = .cutting start
    ∧ 2 ≤ elapsed start s.second := by
  unfold State.cutDue
  cases s.composer.output <;> simp

/-! ## The events of the meters (R87, R89 to R91) -/

theorem Meter.event_iff (i : Nat) (m : Meter) (e : TickEvent) : m.event i = some e ↔
    (m.period = some m.count ∧ m.buffered = none ∧ TickEvent.terminal i = e)
      ∨ (m.period = some m.count ∧ m.buffered ≠ none ∧ TickEvent.extended i = e)
      ∨ (m.period ≠ some m.count ∧ m.compare1 = some m.count ∧ TickEvent.compare i = e) := by
  unfold Meter.event
  by_cases period : m.period = some m.count <;> by_cases buffered : m.buffered = none <;> simp [period, buffered]

/-- A meter that counts differs from what it was. -/
theorem State.meterTicked_ne (s : State) (m : Meter) : s.meterTicked m ≠ m ↔ s.meterCounts m = true := by
  unfold State.meterTicked
  split
  · rename_i counts
    refine iff_of_true (fun same => ?_) counts
    exact Nat.succ_ne_self _ (congrArg Meter.count same)
  · rename_i still
    exact iff_of_false (fun h => h rfl) still

theorem State.mem_metersDue (s : State) (e : TickEvent) : e ∈ s.metersDue ↔
    ∃ i, s.counted.meter i ≠ s.meter i ∧ (s.counted.meter i).event i = some e := by
  unfold State.metersDue
  rw [mem_filterMap_zipIdx_getD Meter.free (by simp [State.meterCounts, Meter.free])]
  simp only [Option.ite_none_right_eq_some, State.meter_counted, State.meterTicked_ne]
  rfl

/-! ## O30 -/

/-- The events a local second lists: those of the lanes, of the programmes and of the timeouts as it has counted them,
and those of the meters it has counted (R41). -/
theorem State.mem_due_localSecond {s : State} (sized : s.composer.channels.length = 48) (e : TickEvent) :
    e ∈ s.localSecond.due ↔ e ∈ s.counted.lanesDue
      ∨ (∃ i c h, s.counted.entryAt i = some c ∧ s.counted.notices.hotelTime = some h
        ∧ (s.counted.noticeAt i).due c.number h = some e)
      ∨ e ∈ s.counted.timeoutsDue ∨ e ∈ s.metersDue := by
  rw [← State.mem_programmesDue (s := s.counted) sized]
  simp only [State.localSecond, List.mem_append, or_assoc]

/-- A local second lists its events and leaves the rest as counted. -/
theorem State.localSecond_reads (s : State) : (∀ i, s.localSecond.lane i = s.counted.lane i)
    ∧ (∀ i, s.localSecond.entryAt i = s.counted.entryAt i) ∧ (∀ i, s.localSecond.noticeAt i = s.counted.noticeAt i)
    ∧ (∀ i, s.localSecond.meter i = s.counted.meter i) ∧ s.localSecond.second = s.counted.second
    ∧ s.localSecond.notices = s.counted.notices ∧ s.localSecond.lock = s.counted.lock
    ∧ s.localSecond.keypad = s.counted.keypad ∧ s.localSecond.composer = s.counted.composer
    ∧ s.localSecond.buying = s.counted.buying :=
  ⟨fun _ => rfl, fun _ => rfl, fun _ => rfl, fun _ => rfl, rfl, rfl, rfl, rfl, rfl, rfl⟩

/-- Settles O30: each event is in the list of its own kind, and in no other. -/
theorem local_second_lists_its_events : Obligations.local_second_lists_its_events := by
  intro s awake sized
  obtain ⟨lane, entry, notice, meter, second, notices, lock, keypad, composer, buying⟩ := s.localSecond_reads
  refine ⟨_, exec_localSecond awake, ?_⟩
  simp only [State.mem_due_localSecond sized, State.mem_lanesDue, State.mem_timeoutsDue, State.mem_metersDue,
    NoticeEntry.due_iff, Meter.event_iff, lane, entry, notice, meter, second, notices, lock, keypad, composer, buying]
  refine ⟨fun i => ?lost, fun i => ?wait, fun n => ?swap, fun n => ?stop, ?pin, ?channel, ?cut, ?refusal,
    fun i => ?terminal, fun i => ?extended, fun i => ?compare⟩
  case lost => simp [Lane.lossDue_iff]
  case wait => simp [Lane.waitDue_iff]
  case swap =>
    simp only [reduceCtorEq, and_false, or_false, false_or, exists_false, TickEvent.programmeSwap.injEq]
    constructor
    · rintro ⟨i, c, h, at', time, ⟨x, next, due⟩, number⟩
      exact ⟨i, c, h, x, at', number, time, next, due⟩
    · rintro ⟨i, c, h, x, at', number, time, next, due⟩
      exact ⟨i, c, h, at', time, ⟨x, next, due⟩, number⟩
  case stop =>
    simp only [reduceCtorEq, and_false, or_false, false_or, exists_false, TickEvent.programmeEnd.injEq]
    constructor
    · rintro ⟨i, c, h, at', time, ⟨x, current, due⟩, number⟩
      exact ⟨i, c, h, x, at', number, time, current, due⟩
    · rintro ⟨i, c, h, x, at', number, time, current, due⟩
      exact ⟨i, c, h, at', time, ⟨x, current, due⟩, number⟩
  case pin => simp [State.pinTimeoutDue, Option.any_eq_true]
  case channel => simp [State.channelTimeoutDue, Option.any_eq_true]
  case cut => simp [State.cutDue_iff]
  case refusal => simp [State.refusalDue, Option.any_eq_true]
  case terminal => simp
  case extended => simp
  case compare => simp

end Sys2Proof.Machine
end

section
/-!
PROOF. A lane that loses its stream, and a key wait that expires (O31).
-/

namespace Sys2Proof.Machine

/-- The watch interval of a lane that has a configuration (section 1.2). -/
theorem Lane.interval_eq {l : Lane} {c : LaneConfig} (h : l.config = some c) : l.interval = 2 ^ c.watchCode := by
  simp [Lane.interval, h]

/-- A lane whose silence has reached its interval loses its stream (R20). -/
theorem exec_streamLost {s : State} {i : Nat} (powered : s.powered = true) (listed : .streamLost i ∈ s.due)
    (due : (s.lane i).lossDue = true) :
    exec (.streamLost i) s = .next (State.loseStream i { s with due := s.due.erase (.streamLost i) }) :=
  (State.takeEvent_due _ s powered listed).trans (congrArg _ (if_pos due))

/-- A key wait that has run out ends KEYLESS (R34). -/
theorem exec_keyWaitExpiry {s : State} {i : Nat} (powered : s.powered = true) (listed : .keyWaitExpiry i ∈ s.due)
    (due : (s.lane i).waitDue s.second = true) :
    exec (.keyWaitExpiry i) s = .next (State.endWait i { s with due := s.due.erase (.keyWaitExpiry i) }) :=
  (State.takeEvent_due _ s powered listed).trans (congrArg _ (if_pos due))

/-- Settles O31: each event's effect on the lane, then the view decision taken afresh. -/
theorem lost_stream_and_expired_key_wait : Obligations.lost_stream_and_expired_key_wait := by
  intro s i powered l after
  refine ⟨fun c listed pass armed config reached => ?_, fun start k p listed waiting ran => ?_⟩
  · have due : l.lossDue = true := l.lossDue_iff.2 ⟨pass, armed, (Lane.interval_eq config).trans_le reached⟩
    exact ⟨_, exec_streamLost powered listed due, State.finish_redecided _⟩
  · have due : l.waitDue s.second = true := (l.waitDue_iff _).2 ⟨start, k, p, waiting, ran⟩
    exact ⟨_, exec_keyWaitExpiry powered listed due, State.finish_redecided _⟩

end Sys2Proof.Machine
end

section
/-!
PROOF. What an output slot sends and takes (O42).
-/

namespace Sys2Proof.Machine

/-! ## What no output slot does -/

/-- l' is l with none but its oldest cells gone. -/
structure Lane.Shortened (l l' : Lane) : Prop where
  same : { l' with area := l.area } = l
  area : l'.area <:+ l.area

theorem Lane.Shortened.refl (l : Lane) : Lane.Shortened l l := ⟨rfl, List.suffix_refl _⟩

theorem Lane.Shortened.trans {a b c : Lane} (h : Lane.Shortened a b) (k : Lane.Shortened b c) : Lane.Shortened a c :=
  ⟨(congrArg (fun l : Lane => { l with area := a.area }) k.same).trans h.same, k.area.trans h.area⟩

theorem Lane.Shortened.drained (l : Lane) : Lane.Shortened l { l with area := l.undiscarded } :=
  ⟨rfl, l.undiscarded_suffix⟩

theorem Lane.Shortened.dropBefore (order : Nat) (l : Lane) : Lane.Shortened l (l.dropBefore order) := by
  unfold Lane.dropBefore
  split
  · exact ⟨rfl, List.dropWhile_suffix _⟩
  · exact .refl l

theorem Lane.Shortened.dropThroughStart (l : Lane) : Lane.Shortened l l.dropThroughStart :=
  ⟨rfl, (List.drop_suffix _ _).trans (List.dropWhile_suffix _)⟩

/-- t is s but for the output state, the port and the oldest cells of tuned lanes. -/
structure SlotOnly (s t : State) : Prop where
  rest : { t with lanes := s.lanes, composer := s.composer } = s
  composer : { t.composer with output := s.composer.output, port := s.composer.port } = s.composer
  lanes : ∀ i, Lane.Shortened (s.lane i) (t.lane i)
  untuned : ∀ i, s.tunedLane i = false → t.lane i = s.lane i

namespace SlotOnly

variable {s t u : State}

theorem tunedLane (h : SlotOnly s t) (i : Nat) : t.tunedLane i = s.tunedLane i := by
  have tuned := congrArg Composer.tuned h.composer
  have channels := congrArg Composer.channels h.composer
  exact State.tunedLane_congr (State.tunedEntry_congr tuned channels) i

theorem trans (h : SlotOnly s t) (k : SlotOnly t u) : SlotOnly s u where
  rest := (congrArg (fun x : State => { x with lanes := s.lanes, composer := s.composer }) k.rest).trans h.rest
  composer := (congrArg (fun x : Composer => { x with output := s.composer.output, port := s.composer.port })
    k.composer).trans h.composer
  lanes i := (h.lanes i).trans (k.lanes i)
  untuned i hi := (k.untuned i ((h.tunedLane i).trans hi)).trans (h.untuned i hi)

/-- The output state and the port are written. -/
theorem sent (s : State) (o : OutputState) (c : Cell) :
    SlotOnly s { s with composer := { s.composer with output := o, port := c } } :=
  ⟨rfl, rfl, fun _ => .refl _, fun _ _ => rfl⟩

/-- A tuned lane loses its oldest cells. -/
theorem setLane {i : Nat} {l : Lane} (tuned : s.tunedLane i = true) (h : Lane.Shortened (s.lane i) l) :
    SlotOnly s (s.setLane i l) := by
  refine ⟨rfl, rfl, fun j => ?_, fun j hj => ?_⟩
  · rw [State.lane_setLane]
    split
    · rename_i here
      exact here.1 ▸ h
    · exact .refl _
  · refine s.lane_setLane_ne l fun same => ?_
    rw [same, hj] at tuned
    cases tuned

theorem follow (s : State) : SlotOnly s s.followOutput := by
  have other := s.followOutput_composer s.composer.output
  have lanes := s.followOutput_lanes
  refine ⟨by simp, congrArg (fun c : Composer => { c with port := s.composer.port }) other, fun i => ?_,
    fun i hi => (lanes i).2 (.inl hi)⟩
  by_cases h : s.tunedLane i = true ∧ OnSlate s.followOutput
  · rw [(lanes i).1 h.1 h.2]
    exact .drained _
  · rw [(lanes i).2 ?_]
    · exact .refl _
    · by_cases tuned : s.tunedLane i = true
      · exact .inr fun slate => h ⟨tuned, slate⟩
      · exact .inl (by simpa using tuned)

theorem drain {e : ChannelEntry} (tuned : s.tunedEntry = some e) : SlotOnly s (s.drainLanes e) := by
  refine ⟨by simp, by simp, fun i => ?_, fun i hi => ?_⟩
  · rw [State.lane_drainLanes]
    split
    · exact .drained _
    · exact .refl _
  · rw [State.lane_drainLanes, if_neg]
    rw [State.tunedLane, tuned] at hi
    simp [hi]

end SlotOnly

theorem State.tunedLane_eq {s : State} {e : ChannelEntry} (h : s.tunedEntry = some e) (i : Nat) :
    s.tunedLane i = e.names i := by
  simp [State.tunedLane, h]

/-! ## The arbiter (R165) -/

theorem ChannelEntry.names_iff (e : ChannelEntry) (i : Nat) : e.names i = true ↔ i = e.picture ∨ e.sound = some i := by
  simp [ChannelEntry.names, eq_comm (a := i)]

/-- Lane i, which the entry names, offers x next. -/
def Offers (s : State) (e : ChannelEntry) (i : Nat) (x : AreaCell) : Prop :=
  e.names i = true ∧ NextOffered (s.lane i) x

theorem State.arbiter_none {s : State} {e : ChannelEntry} (h : ∀ i x, ¬ Offers s e i x) : s.arbiter e = none := by
  have idle : ∀ i, e.names i = true → (s.lane i).offered.head? = none := by
    intro i named
    cases head : (s.lane i).offered.head? with
    | none => rfl
    | some x => exact absurd ⟨named, (Lane.offered_head _ _).1 head⟩ (h i x)
  unfold State.arbiter
  rw [idle e.picture ((e.names_iff _).2 (.inl rfl))]
  cases sound : e.sound with
  | none => rfl
  | some i => simp [idle i ((e.names_iff i).2 (.inr sound))]

/-- The arbiter's cell is one an entry's lane offers. -/
theorem State.arbiter_names {s : State} {e : ChannelEntry} {i : Nat} {x : AreaCell} (h : s.arbiter e = some (i, x)) :
    e.names i = true := by
  have sounds : ∀ p, (e.sound.bind fun i => ((s.lane i).offered.head?).map fun c => (i, c)) = some p →
      e.names p.1 = true := by
    intro p hp
    obtain ⟨j, sound, hp⟩ := Option.bind_eq_some_iff.1 hp
    obtain ⟨c, -, rfl⟩ := Option.map_eq_some_iff.1 hp
    exact (e.names_iff j).2 (.inr sound)
  have picture : e.names e.picture = true := (e.names_iff _).2 (.inl rfl)
  unfold State.arbiter at h
  dsimp only at h
  split at h
  · exact sounds _ h
  · split at h
    · cases h
      exact picture
    · rename_i p _ _ j c found
      split at h
      · cases h
        exact sounds _ found
      · cases h
        exact picture

/-- Of the cells offered, the arbiter takes the one accepted first. -/
theorem State.arbiter_first {s : State} {e : ChannelEntry} {i : Nat} {x : AreaCell} (h : Offers s e i x)
    (first : ∀ j y, Offers s e j y → j ≠ i → x.order < y.order) : s.arbiter e = some (i, x) := by
  obtain ⟨named, offered⟩ := h
  have head := (Lane.offered_head _ _).2 offered
  have later : ∀ j y, e.names j = true → (s.lane j).offered.head? = some y → j ≠ i → x.order < y.order :=
    fun j y nj hy => first j y ⟨nj, (Lane.offered_head _ _).1 hy⟩
  unfold State.arbiter
  rcases (e.names_iff i).1 named with rfl | sound
  · rw [head]
    cases sound : e.sound with
    | none => rfl
    | some j =>
      cases other : (s.lane j).offered.head? with
      | none => simp [other]
      | some y =>
        have behind : ¬ y.order < x.order := by
          by_cases same : j = e.picture
          · rw [same, head] at other
            cases other
            exact Nat.lt_irrefl _
          · exact Nat.lt_asymm (later j y ((e.names_iff j).2 (.inr sound)) other same)
        simp [other, behind]
  · simp only [sound, Option.bind_some, head, Option.map_some]
    cases other : (s.lane e.picture).offered.head? with
    | none => rfl
    | some p =>
      by_cases same : e.picture = i
      · rw [same, head] at other
        cases other
        simp [same]
      · exact if_pos (later _ p ((e.names_iff _).2 (.inl rfl)) other same)

end Sys2Proof.Machine
end

section
/-!
PROOF. The output slot by output state (O42).
-/

namespace Sys2Proof.Machine

/-! ## A slate slot (R171) -/

/-- In an ascending list, the least member that passes a test is the first that does. -/
theorem find?_of_least {xs : List Nat} {q : Nat → Bool} {p : Nat} (ascending : xs.Pairwise (· < ·)) (mem : p ∈ xs)
    (passes : q p = true) (least : ∀ a ∈ xs, q a = true → p ≤ a) : xs.find? q = some p := by
  induction xs with
  | nil => cases mem
  | cons x xs ih =>
    obtain ⟨ahead, ascending⟩ := List.pairwise_cons.1 ascending
    rcases List.mem_cons.1 mem with rfl | behind
    · exact List.find?_cons_of_pos passes
    · have fails : ¬ q x = true := fun h => by
        have := least x List.mem_cons_self h
        have := ahead p behind
        omega
      rw [List.find?_cons_of_neg fails]
      exact ih ascending behind fun a ha => least a (List.mem_cons_of_mem x ha)

/-- The positions of a slate that can be emitted. -/
def State.readyPositions (s : State) (k : Slate) : List Nat :=
  [0, 1, 2, 3].filter fun p => (s.slatePosition k p).isReady

/-- A position is beyond the one emitted last. -/
def isBeyond (last : Option Nat) (p : Nat) : Bool := last.all fun l => decide (l < p)

theorem State.readyPositions_ascending (s : State) (k : Slate) : (s.readyPositions k).Pairwise (· < ·) :=
  List.Pairwise.filter _ (by decide)

theorem State.mem_readyPositions (s : State) (k : Slate) (p : Nat) :
    p ∈ s.readyPositions k ↔ ∃ h b, p < 4 ∧ s.slatePosition k p = .ready h b := by
  have low : p ∈ [0, 1, 2, 3] ↔ p < 4 := by simp; omega
  unfold State.readyPositions
  rw [List.mem_filter, low]
  cases s.slatePosition k p <;> simp [SlatePosition.isReady]

theorem State.nextPosition_eq (s : State) (k : Slate) (last : Option Nat) : s.nextPosition k last =
    ((s.readyPositions k).find? (isBeyond last)).or (s.readyPositions k).head? := by
  have choose : ∀ o o' : Option Nat, (match o with
      | some p => some p
      | none => o') = o.or o' := by
    intro o o'
    cases o <;> rfl
  cases last <;> exact choose _ _

section Slate

variable {s : State} {k : Slate} {last : Option Nat} {p : Nat}

theorem isBeyond_iff : isBeyond last p = true ↔ ∀ l, last = some l → l < p := by
  cases last <;> simp [isBeyond]

theorem State.nextPosition_beyond (ready : p ∈ s.readyPositions k) (beyond : ∀ l, last = some l → l < p)
    (least : ∀ q ∈ s.readyPositions k, (∀ l, last = some l → l < q) → p ≤ q) : s.nextPosition k last = some p := by
  rw [s.nextPosition_eq, find?_of_least (s.readyPositions_ascending k) ready (isBeyond_iff.2 beyond)
    fun q hq h => least q hq (isBeyond_iff.1 h)]
  rfl

/-- With no READY position beyond the last emitted, the lowest READY one is next. -/
theorem State.nextPosition_again {l : Nat} (ready : p ∈ s.readyPositions k) (lastIs : last = some l)
    (least : ∀ q ∈ s.readyPositions k, q ≤ l ∧ p ≤ q) : s.nextPosition k last = some p := by
  have none : (s.readyPositions k).find? (isBeyond last) = none := by
    rw [List.find?_eq_none]
    intro q hq beyond
    exact Nat.not_lt.2 (least q hq).1 (isBeyond_iff.1 beyond l lastIs)
  have first : (s.readyPositions k).find? (fun _ => true) = some p :=
    find?_of_least (s.readyPositions_ascending k) ready rfl fun q hq _ => (least q hq).2
  have head : ∀ xs : List Nat, xs.head? = xs.find? fun _ => true := by
    intro xs
    cases xs <;> rfl
  rw [s.nextPosition_eq, none, head, first]
  rfl

variable (seq : Nat)

theorem State.slateSlot_none (h : s.readyPositions k = []) :
    s.slateSlot k last seq = { s with composer := { s.composer with port := Cell.null } } := by
  simp [State.slateSlot, s.nextPosition_eq, h]

theorem State.slateSlot_sends {h : SlateHeader} {b : List Byte} (next : s.nextPosition k last = some p)
    (ready : s.slatePosition k p = .ready h b) : s.slateSlot k last seq = { s with composer :=
      { s.composer with port := s.slateCell h b seq, output := .slate k (some p) ((seq + 1) % 16) } } := by
  simp [State.slateSlot, next, ready]

end Slate

theorem State.slateSlot_only (k : Slate) (last : Option Nat) (seq : Nat) (s : State) :
    SlotOnly s (s.slateSlot k last seq) := by
  unfold State.slateSlot
  split
  · exact .sent s s.composer.output _
  · split
    · exact .sent s _ _
    · exact .sent s s.composer.output _

theorem State.slateSlot_lanes (k : Slate) (last : Option Nat) (seq : Nat) (s : State) :
    (s.slateSlot k last seq).lanes = s.lanes := by
  unfold State.slateSlot
  split
  · rfl
  · split <;> rfl

/-! ## A slot in SHOWING and CUTTING (R164, R165, R167) -/

/-- s after the oldest cell of lane i is taken. -/
def State.taken (s : State) (i : Nat) : State := s.setLane i { s.lane i with area := (s.lane i).area.tail }

theorem SlotOnly.taken {s : State} {i : Nat} (tuned : s.tunedLane i = true) : SlotOnly s (s.taken i) :=
  have shorter : Lane.Shortened (s.lane i) { s.lane i with area := (s.lane i).area.tail } :=
    ⟨rfl, List.tail_suffix _⟩
  SlotOnly.setLane tuned shorter

theorem State.programmeSlot_null {s : State} {e : ChannelEntry} (h : s.arbiter e = none) :
    s.programmeSlot e = { s with composer := { s.composer with port := Cell.null } } := by
  simp [State.programmeSlot, h]

theorem State.programmeSlot_sends {s : State} {e : ChannelEntry} {i : Nat} {x : AreaCell}
    (h : s.arbiter e = some (i, x)) :
    s.programmeSlot e = { s.taken i with composer := { s.composer with port := x.cell } } := by
  simp [State.programmeSlot, h, State.takeOldest, State.taken]

theorem State.programmeSlot_only {s : State} {e : ChannelEntry} (tuned : s.tunedEntry = some e) :
    SlotOnly s (s.programmeSlot e) := by
  cases h : s.arbiter e with
  | none => exact State.programmeSlot_null h ▸ .sent s s.composer.output _
  | some p =>
    have named : s.tunedLane p.1 = true := (State.tunedLane_eq tuned _).trans (State.arbiter_names h)
    rw [State.programmeSlot_sends h]
    exact (SlotOnly.taken named).trans (.sent (s.taken p.1) s.composer.output _)

/-- Nothing follows while no cut has reached its end and no slate shows. -/
theorem State.followOutput_still {s : State} {e : ChannelEntry} (tuned : s.tunedEntry = some e)
    (uncut : ¬ s.cutReached e = true) (unslated : ¬ OnSlate s) : s.followOutput = s := by
  unfold State.followOutput
  rw [tuned]
  dsimp only
  rw [if_neg uncut]
  split
  · rename_i k l q h
    exact absurd ⟨k, l, q, h⟩ unslated
  · rfl

/-- A lane in PASS is in the table. -/
theorem State.lt_of_pass {s : State} {i : Nat} (h : (s.lane i).response = .pass) : i < s.lanes.length := by
  by_contra beyond
  simp [State.lane, Nat.le_of_not_lt beyond, Lane.initial] at h

/-! ## A slot in WAITING_START (R169) -/

theorem State.waitingSlot_only {s : State} {e : ChannelEntry} (tuned : s.tunedEntry = some e) :
    SlotOnly s (s.waitingSlot e) := by
  have picture : s.tunedLane e.picture = true := by
    rw [State.tunedLane_eq tuned, ChannelEntry.names_iff]
    exact .inl rfl
  unfold State.waitingSlot
  split
  · exact (SlotOnly.drain tuned).trans (by simpa using SlotOnly.sent (s.drainLanes e) s.composer.output Cell.null)
  · rename_i c _
    cases sound : e.sound with
    | none => exact (SlotOnly.setLane picture (.dropThroughStart _)).trans (.sent _ _ _)
    | some i =>
      have named : s.tunedLane i = true := by
        rw [State.tunedLane_eq tuned, ChannelEntry.names_iff]
        exact .inr sound
      have first := SlotOnly.setLane named (.dropBefore c.order (s.lane i))
      exact (first.trans (.setLane ((first.tunedLane _).trans picture) (.dropThroughStart _))).trans (.sent _ _ _)

/-! ## The output slot by output state (R164) -/

section Slot

variable {s : State}

theorem State.outputSlot_slate {k : Slate} {last : Option Nat} {seq : Nat} (h : s.composer.output = .slate k last seq) :
    s.outputSlot = s.slateSlot k last seq := by
  simp [State.outputSlot, h]

theorem State.outputSlot_none (h : s.composer.output = .none) :
    s.outputSlot = { s with composer := { s.composer with port := Cell.null } } := by
  simp [State.outputSlot, h]

theorem State.outputSlot_programme {e : ChannelEntry} (tuned : s.tunedEntry = some e)
    (h : s.composer.output = .showing ∨ ∃ c, s.composer.output = .cutting c) :
    s.outputSlot = (s.programmeSlot e).followOutput := by
  rcases h with h | ⟨c, h⟩ <;> simp [State.outputSlot, h, tuned]

theorem State.outputSlot_waiting {e : ChannelEntry} (tuned : s.tunedEntry = some e)
    (h : s.composer.output = .waitingStart) : s.outputSlot = s.waitingSlot e := by
  simp [State.outputSlot, h, tuned]

end Slot

theorem State.outputSlot_only (s : State) : SlotOnly s s.outputSlot := by
  unfold State.outputSlot
  split
  · exact s.slateSlot_only _ _ _
  · exact (State.programmeSlot_only ‹_›).trans (.follow _)
  · exact (State.programmeSlot_only ‹_›).trans (.follow _)
  · exact State.waitingSlot_only ‹_›
  · exact .sent s s.composer.output _

end Sys2Proof.Machine
end

section
/-!
PROOF. What a slot of SHOWING, CUTTING and WAITING_START sends (O42).
-/

namespace Sys2Proof.Machine

/-! ## SHOWING and CUTTING -/

section Programme

variable {s : State} {e : ChannelEntry} {i : Nat} {x : AreaCell}

theorem State.lane_taken (inTable : i < s.lanes.length) :
    (s.taken i).lane i = { s.lane i with area := (s.lane i).area.tail } := by
  rw [State.taken, State.lane_setLane, if_pos ⟨rfl, inTable⟩]

/-- With nothing offered, the slot sends a null cell, and a cut goes on (R164, R167). -/
theorem State.outputSlot_nothing (tuned : s.tunedEntry = some e)
    (output : s.composer.output = .showing ∨ ∃ c, s.composer.output = .cutting c) (h : s.arbiter e = none) :
    s.outputSlot = { s with composer := { s.composer with port := Cell.null } } := by
  rw [State.outputSlot_programme tuned output, State.programmeSlot_null h]
  have nothing : State.arbiter { s with composer := { s.composer with port := Cell.null } } e = none := h
  refine State.followOutput_still tuned ?_ ?_
  · unfold State.cutReached
    rw [nothing]
    split
    · rename_i found
      cases found
    · exact Bool.false_ne_true
  · rintro ⟨k, l, q, slate⟩
    have slate : s.composer.output = .slate k l q := slate
    rcases output with output | ⟨c, output⟩ <;> rw [output] at slate <;> cases slate

/-- The state in which the taken cell is on the port, before what follows from it. -/
def State.portTaken (s : State) (i : Nat) (x : AreaCell) : State :=
  { s.taken i with composer := { s.composer with port := x.cell } }

theorem State.portTaken_tuned (tuned : s.tunedEntry = some e) : (s.portTaken i x).tunedEntry = some e := tuned

theorem State.outputSlot_takes (tuned : s.tunedEntry = some e)
    (output : s.composer.output = .showing ∨ ∃ c, s.composer.output = .cutting c) (h : s.arbiter e = some (i, x)) :
    s.outputSlot = (s.portTaken i x).followOutput := by
  rw [State.outputSlot_programme tuned output, State.programmeSlot_sends h]
  rfl

theorem State.outputSlot_port (tuned : s.tunedEntry = some e)
    (output : s.composer.output = .showing ∨ ∃ c, s.composer.output = .cutting c) (h : s.arbiter e = some (i, x)) :
    s.outputSlot.composer.port = x.cell := by
  rw [State.outputSlot_takes tuned output h]
  have port := congrArg Composer.port ((s.portTaken i x).followOutput_composer .none)
  exact port

/-- A taken cell leaves its lane, SHOWING goes on and nothing else changes (R165). -/
theorem State.outputSlot_shows (tuned : s.tunedEntry = some e) (showing : s.composer.output = .showing)
    (h : s.arbiter e = some (i, x)) : s.outputSlot = s.portTaken i x := by
  rw [State.outputSlot_takes tuned (.inl showing) h]
  exact State.followOutput_idle _ (.inl showing)

/-- The output state after a slot: a slate where the cut has reached its start mark (R167). -/
theorem State.outputSlot_output (tuned : s.tunedEntry = some e)
    (output : s.composer.output = .showing ∨ ∃ c, s.composer.output = .cutting c) (h : s.arbiter e = some (i, x)) :
    s.outputSlot.composer.output = s.composer.output
      ∨ ∃ k, s.composer.decision = some (.slate k) ∧ s.outputSlot.composer.output = .slate k none 0 := by
  rw [State.outputSlot_takes tuned output h,
    State.followOutput_output _ e (State.portTaken_tuned tuned)]
  split
  · unfold State.beginSlate
    split
    · rename_i k decision
      exact .inr ⟨k, decision, rfl⟩
    · exact .inl rfl
  · exact .inl rfl

/-- A cut whose start mark is now next ends in its slate, and the cells offered are discarded (R167, R168). -/
theorem State.outputSlot_cut_ends {c : Word32} {k : Slate} (tuned : s.tunedEntry = some e)
    (cutting : s.composer.output = .cutting c) (decision : s.composer.decision = some (.slate k))
    (h : s.arbiter e = some (i, x)) (next : StartMarkNext (s.taken i) e) :
    s.outputSlot.composer.output = .slate k none 0
      ∧ ∀ j, e.names j = true → (s.outputSlot.lane j).area = ((s.taken i).lane j).undiscarded := by
  have reached : (s.portTaken i x).cutReached e = true := (State.cutReached_iff (s.portTaken i x) e c cutting).2 next
  have slate : (s.portTaken i x).beginSlate.composer.output = .slate k none 0 := by
    have decided : (s.portTaken i x).composer.decision = some (.slate k) := decision
    simp [State.beginSlate, decided]
  have output : s.outputSlot.composer.output = .slate k none 0 := by
    rw [State.outputSlot_takes tuned (.inr ⟨c, cutting⟩) h,
      State.followOutput_output _ e (State.portTaken_tuned tuned), if_pos reached, slate]
  refine ⟨output, fun j named => ?_⟩
  rw [State.outputSlot_takes tuned (.inr ⟨c, cutting⟩) h] at output ⊢
  have tunedLane : (s.portTaken i x).tunedLane j = true :=
    (State.tunedLane_eq (State.portTaken_tuned tuned) j).trans named
  rw [((s.portTaken i x).followOutput_lanes j).1 tunedLane ⟨k, none, 0, output⟩]
  rfl

/-- A cut whose start mark is not next goes on (R167). -/
theorem State.outputSlot_cut_goes_on {c : Word32} (tuned : s.tunedEntry = some e)
    (cutting : s.composer.output = .cutting c) (h : s.arbiter e = some (i, x)) (far : ¬ StartMarkNext (s.taken i) e) :
    s.outputSlot = s.portTaken i x := by
  rw [State.outputSlot_takes tuned (.inr ⟨c, cutting⟩) h]
  refine State.followOutput_still (State.portTaken_tuned tuned)
    (fun reached => far ((State.cutReached_iff (s.portTaken i x) e c cutting).1 reached)) ?_
  rintro ⟨k, l, q, slate⟩
  have slate : s.composer.output = .slate k l q := slate
  rw [cutting] at slate
  cases slate

end Programme

/-! ## WAITING_START -/

/-- The cells up to and including the first start mark are taken. -/
theorem Lane.dropThroughStart_area {l : Lane} {as bs : List AreaCell} {x : AreaCell} (area : l.area = as ++ x :: bs)
    (ahead : ∀ c ∈ as, c.cell.start = false) (start : x.cell.start = true) : l.dropThroughStart.area = bs := by
  simp only [Lane.dropThroughStart, area]
  rw [List.dropWhile_append_of_pos fun c hc => by simp [ahead c hc], List.dropWhile_cons_of_neg (by simp [start])]
  rfl

/-- Dropping cells from the front stops at one that does not pass the test. -/
theorem dropWhile_stops {α : Type} {q : α → Bool} (as : List α) {x : α} (bs : List α) (h : q x = false) :
    ∃ cs, (as ++ x :: bs).dropWhile q = cs ++ x :: bs ∧ ∀ c ∈ cs, c ∈ as := by
  induction as with
  | nil => exact ⟨[], by simp [h], nofun⟩
  | cons a as ih =>
    cases ha : q a with
    | true =>
      obtain ⟨cs, left, from_⟩ := ih
      exact ⟨cs, by simpa [ha] using left, fun c hc => List.mem_cons_of_mem a (from_ c hc)⟩
    | false => exact ⟨a :: as, by simp [ha], fun c hc => hc⟩

/-- What dropping the cells accepted earlier leaves of an area up to a cell of that order. -/
theorem Lane.dropBefore_area {l : Lane} {as bs : List AreaCell} {x : AreaCell} (area : l.area = as ++ x :: bs) :
    ∃ cs, (l.dropBefore x.order).area = cs ++ x :: bs ∧ ∀ c ∈ cs, c ∈ as := by
  unfold Lane.dropBefore
  split
  · rw [area]
    exact dropWhile_stops as bs (by simp)
  · exact ⟨as, area, fun _ h => h⟩

section Waiting

variable {s : State} {e : ChannelEntry}

theorem State.waitingSlot_null (h : (s.lane e.picture).offered.find? (fun c => c.cell.start) = none) :
    s.waitingSlot e = { s.drainLanes e with composer := { s.composer with port := Cell.null } } := by
  simp [State.waitingSlot, h]

/-- The slot that finds a start mark: the sound lane, then the picture lane, are cleared up to it (R169). -/
theorem State.waitingSlot_found {c : AreaCell} (h : (s.lane e.picture).offered.find? (fun c => c.cell.start) = some c) :
    ∃ u : State, s.waitingSlot e = { u.setLane e.picture (u.lane e.picture).dropThroughStart with
        composer := { s.composer with port := c.cell, output := .showing } }
      ∧ u.lanes.length = s.lanes.length
      ∧ ∀ j, j < s.lanes.length →
          u.lane j = if e.sound = some j then (s.lane j).dropBefore c.order else s.lane j := by
  unfold State.waitingSlot
  rw [h]
  cases e.sound with
  | none => exact ⟨s, rfl, rfl, fun _ _ => rfl⟩
  | some i =>
    refine ⟨_, rfl, by simp [State.setLane], fun j inTable => ?_⟩
    rw [State.lane_setLane]
    by_cases same : i = j
    · subst same
      simp [inTable]
    · simp [same]

/-- The first cell with its start mark set among those the picture lane offers. -/
theorem Lane.offered_start {l : Lane} {as bs : List AreaCell} {x : AreaCell} (pass : l.response = .pass)
    (area : l.area = as ++ x :: bs) (ahead : ∀ c ∈ as, c.held = false ∧ c.cell.start = false)
    (clear : x.held = false) (start : x.cell.start = true) : l.offered.find? (fun c => c.cell.start) = some x := by
  have clearAhead : ∀ c ∈ as, (!c.held) = true := fun c hc => by simp [(ahead c hc).1]
  have none : as.find? (fun c => c.cell.start) = none := List.find?_eq_none.2 fun c hc => by simp [(ahead c hc).2]
  unfold Lane.offered
  rw [if_pos pass, area, List.takeWhile_append_of_pos clearAhead, List.takeWhile_cons_of_pos (by simp [clear]),
    List.find?_append, none, Option.none_or]
  exact List.find?_cons_of_pos start

theorem Lane.offered_no_start {l : Lane} (h : l.response ≠ .pass
    ∨ ∀ c ∈ l.area.takeWhile (fun c => !c.held), c.cell.start = false) :
    l.offered.find? (fun c => c.cell.start) = none := by
  refine List.find?_eq_none.2 fun c hc => ?_
  unfold Lane.offered at hc
  rcases h with h | h
  · rw [if_neg h] at hc
    cases hc
  · split at hc
    · simp [h c hc]
    · cases hc

end Waiting

/-- Where a start mark is offered, its cell is sent and each lane is cleared up to it (R169). -/
theorem State.waitingSlot_starts {s : State} {e : ChannelEntry} {as bs : List AreaCell} {x : AreaCell}
    (pass : (s.lane e.picture).response = .pass) (area : (s.lane e.picture).area = as ++ x :: bs)
    (ahead : ∀ c ∈ as, c.held = false ∧ c.cell.start = false) (clear : x.held = false) (start : x.cell.start = true) :
    (s.waitingSlot e).composer.port = x.cell ∧ (s.waitingSlot e).composer.output = .showing
      ∧ ((s.waitingSlot e).lane e.picture).area = bs
      ∧ ∀ i, e.sound = some i → i ≠ e.picture → (s.lane i).response = .pass →
          ((s.waitingSlot e).lane i).area =
            (s.lane i).area.dropWhile fun c => !c.held && decide (c.order < x.order) := by
  obtain ⟨u, slot, size, lanes⟩ := State.waitingSlot_found (Lane.offered_start pass area ahead clear start)
  have lane : ∀ j, (s.waitingSlot e).lane j = (u.setLane e.picture (u.lane e.picture).dropThroughStart).lane j :=
    fun j => by rw [slot]; rfl
  refine ⟨by rw [slot], by rw [slot], ?_, fun i sound other passes => ?_⟩
  · have inTable := State.lt_of_pass pass
    rw [lane, State.lane_setLane, if_pos ⟨rfl, size ▸ inTable⟩, lanes _ inTable]
    split
    · obtain ⟨cs, left, among⟩ := Lane.dropBefore_area area
      exact Lane.dropThroughStart_area left (fun c hc => (ahead c (among c hc)).2) start
    · exact Lane.dropThroughStart_area area (fun c hc => (ahead c hc).2) start
  · rw [lane, State.lane_setLane_ne _ _ (Ne.symm other), lanes i (State.lt_of_pass passes), if_pos sound,
      Lane.dropBefore, if_pos passes]

/-- Where none is offered, every cell offered is discarded and a null cell is sent (R169). -/
theorem State.waitingSlot_drains {s : State} {e : ChannelEntry} (h : (s.lane e.picture).response ≠ .pass
      ∨ ∀ c ∈ (s.lane e.picture).area.takeWhile (fun c => !c.held), c.cell.start = false) :
    (s.waitingSlot e).composer = { s.composer with port := Cell.null }
      ∧ ∀ i, ((s.waitingSlot e).lane i).area = if e.names i = true ∧ (s.lane i).response = .pass
          then (s.lane i).area.dropWhile (fun c => !c.held) else (s.lane i).area := by
  have slot := State.waitingSlot_null (Lane.offered_no_start h)
  refine ⟨by rw [slot], fun i => ?_⟩
  have lane : (s.waitingSlot e).lane i = (s.drainLanes e).lane i := by rw [slot]; rfl
  rw [lane, State.lane_drainLanes, ite_and]
  split <;> rfl

/-! ## O42 -/

/-- Settles O42: the frame of every slot (`State.outputSlot_only`), then the slot of each output state. -/
theorem output_slot_by_output_state : Obligations.output_slot_by_output_state := by
  intro s awake
  have only := s.outputSlot_only
  refine ⟨s.outputSlot, State.act_awake _ s awake, only.rest, only.composer,
    fun i => ⟨(only.lanes i).same, (only.lanes i).area⟩, only.untuned, fun none => ?_, fun k last seq slate => ?_,
    fun e tuned => ?_⟩
  · rw [State.outputSlot_none none]
    exact ⟨rfl, rfl⟩
  · rw [State.outputSlot_slate slate]
    have mem := s.mem_readyPositions k
    refine ⟨s.slateSlot_lanes k last seq, fun empty => ?_, fun p h b ready place => ?_⟩
    · have no : s.readyPositions k = [] := List.eq_nil_iff_forall_not_mem.2 fun p hp => by
        obtain ⟨h, b, ready⟩ := (mem p).1 hp
        exact empty p h b ready
      rw [State.slateSlot_none seq no]
    · have listed := (mem p).2 ⟨h, b, ready⟩
      have next : s.nextPosition k last = some p := by
        rcases place with ⟨beyond, least⟩ | ⟨l, lastIs, least⟩
        · refine State.nextPosition_beyond listed beyond fun q hq => ?_
          obtain ⟨h', b', other⟩ := (mem q).1 hq
          exact least q h' b' other
        · refine State.nextPosition_again listed lastIs fun q hq => ?_
          obtain ⟨h', b', other⟩ := (mem q).1 hq
          exact least q h' b' other
      rw [State.slateSlot_sends seq next ready.2]
  · intro oldest
    refine ⟨fun output => ⟨fun nothing => ?_, fun i x next first _ => ?_⟩, fun waiting => ?_⟩
    · rw [State.outputSlot_nothing tuned output (State.arbiter_none nothing)]
      exact ⟨rfl, rfl⟩
    · have arbiter := State.arbiter_first next first
      have inTable : i < s.lanes.length := State.lt_of_pass next.2.1
      have tail : (s.outputSlot.lane i).area <:+ (s.lane i).area.tail := by
        rw [State.outputSlot_takes tuned output arbiter]
        have suffix := ((SlotOnly.follow (s.portTaken i x)).lanes i).area
        have lane : ((s.portTaken i x).lane i).area = (s.lane i).area.tail :=
          congrArg Lane.area (State.lane_taken inTable)
        rwa [lane] at suffix
      refine ⟨State.outputSlot_port tuned output arbiter, tail, fun showing => ?_,
        State.outputSlot_output tuned output arbiter, fun c k cutting decision => ?_⟩
      · rw [State.outputSlot_shows tuned showing arbiter]
        exact ⟨showing, congrArg Lane.area (State.lane_taken inTable),
          fun j other => s.lane_setLane_ne _ (Ne.symm other)⟩
      · intro taken
        refine ⟨fun mark => State.outputSlot_cut_ends tuned cutting decision arbiter mark, fun far => ?_⟩
        rw [State.outputSlot_cut_goes_on tuned cutting arbiter far]
        exact ⟨cutting, rfl⟩
    · rw [State.outputSlot_waiting tuned waiting]
      exact ⟨fun as x bs pass area ahead clear start => State.waitingSlot_starts pass area ahead clear start,
        State.waitingSlot_drains⟩

end Sys2Proof.Machine
end

section
/-!
PROOF. LOAD KEY, CLEAR KEY and SET PACKAGES (O20), and the keystream (O21).
-/

namespace Sys2Proof.Machine

/-! ## The check of LOAD KEY and CLEAR KEY (R27, R28) -/

theorem phaseOf_eq_none_iff {n : Nat} : phaseOf n = none ↔ 1 < n := by
  match n with
  | 0 | 1 => simp [phaseOf]
  | _ + 2 => simp [phaseOf]

theorem keyCheck_outOfRange {slot phase : Nat} (h : 15 < slot ∨ 1 < phase) :
    keyCheck slot (phaseOf phase) = some .range :=
  if_pos (h.imp_right phaseOf_eq_none_iff.2)

theorem keyCheck_inRange {slot : Nat} (p : Phase) (h : slot ≤ 15) : keyCheck slot (some p) = none := by
  simp [keyCheck, h]

/-! ## The key table -/

/-- The slot that is written, read back. -/
theorem State.keySlot_setKey {s : State} {slot : Nat} (p : Phase) (v : Option Word32) (h : slot < s.keys.length) :
    (s.setKey slot p v).keySlot slot = (s.keySlot slot).withPhase v p := by
  simp [State.keySlot, State.setKey, h]

/-! ## The end of a key wait (R33) -/

/-- Resolving loses exactly the held cells the slot's keys cannot open. -/
theorem AreaCell.isNone_resolve (keys : KeySlot) (c : AreaCell) :
    (c.resolve keys).isNone = (c.held && (c.cell.opened keys).isNone) := by
  cases held : c.held <;> simp [AreaCell.resolve, held]

/-- The key misses a wait's end adds are the held cells left without a key. -/
theorem Lane.resolveWait_eq (keys : KeySlot) (l : Lane) :
    l.resolveWait keys =
      { l with
        keyStatus := .keyed
        area := l.area.filterMap (AreaCell.resolve keys)
        keyMisses := min 65535
          (l.keyMisses + (l.area.filter fun c => c.held && (c.cell.opened keys).isNone).length) } := by
  simp only [Lane.resolveWait, countUpBy, AreaCell.isNone_resolve]

/-- A LOAD KEY of a present phase replaces its value and ends no wait (R27). -/
theorem State.loadKey_present {s : State} {slot : Nat} {p : Phase} (key : Word32) (h : s.keyOf slot p ≠ none) :
    s.loadKey slot (some p) key = s.setKey slot p (some key) :=
  if_pos (Option.isSome_iff_ne_none.2 h)

/-- A LOAD KEY of an absent phase resolves, with the slot it leaves, each lane that waits for it (R33). -/
theorem State.loadKey_absent {s : State} {slot : Nat} {p : Phase} (key : Word32) (h : s.keyOf slot p = none)
    (inTable : slot < s.keys.length) :
    s.loadKey slot (some p) key = State.finish { s.setKey slot p (some key) with
      lanes := s.lanes.map fun l =>
        if l.waitsFor slot p then l.resolveWait ((s.keySlot slot).withPhase (some key) p) else l } := by
  rw [← State.keySlot_setKey p (some key) inTable]
  simp only [State.loadKey, h, Option.isSome_none, Bool.false_eq_true, if_false]
  rfl

/-! ## O20 -/

/-- Settles O20: the check that refuses both key commands, then the effect of each command that is taken. -/
theorem key_and_package_commands : Obligations.key_and_package_commands := by
  intro s t slot phase key set awake here
  refine ⟨fun out => ?_, fun p inSlots code => ?_, _, State.act_taken awake here rfl rfl, State.finish_redecided _⟩
  · have check := keyCheck_outOfRange out
    exact ⟨State.act_refused awake here rfl check, State.act_refused awake here rfl check⟩
  · have check : keyCheck slot (phaseOf phase) = none := code ▸ keyCheck_inRange p inSlots
    have load : exec (.loadKey t slot phase key) s = .next (s.loadKey slot (some p) key) :=
      code ▸ State.act_taken (effect := State.loadKey slot (phaseOf phase) key) awake here rfl check
    have clear : exec (.clearKey t slot phase) s = .next (s.clearKey slot (some p)) :=
      code ▸ State.act_taken (effect := State.clearKey slot (phaseOf phase)) awake here rfl check
    refine ⟨clear, fun present => ?_, fun absent size => ⟨_, load, ?_⟩⟩
    · rw [load, State.loadKey_present key present]
      rfl
    · rw [State.loadKey_absent key absent (by omega)]
      simp only [Lane.resolveWait_eq]
      exact State.finish_redecided _

/-! ## O21 -/

/-- Settles O21: recovery keeps the payload's length (`recoverBytes_length`) and is read byte by byte
(`recoverBytes_getD`). -/
theorem keystream_recovers_payload : Obligations.keystream_recovers_payload := by
  intro c key whole fits x0 x
  have byte := recoverBytes_getD c.length x0 c.payload (fits.trans_eq whole.symm)
  exact ⟨(recoverBytes_length _ _ _).trans whole, fun k inside => (byte k).trans (if_pos inside),
    fun k beyond => (byte k).trans (if_neg (Nat.not_lt.2 beyond)), rfl, rfl⟩

end Sys2Proof.Machine
end

section
/-!
PROOF. What a local second left due comes ahead of the next other command (O3).
-/

namespace Sys2Proof.Machine

/-! ## What says how a command reaches the part -/

/-- Power, the events left due and a RESTART just taken are the same: a command reaches t as it reaches s (log entries
7, 10 and 44). -/
structure SameReach (s t : State) : Prop where
  powered : t.powered = s.powered
  due : t.due = s.due
  restarted : t.keypad.restarted = s.keypad.restarted

theorem SameReach.refl (s : State) : SameReach s s := ⟨rfl, rfl, rfl⟩

theorem SameReach.trans {s t u : State} (h : SameReach s t) (k : SameReach t u) : SameReach s u :=
  ⟨k.powered.trans h.powered, k.due.trans h.due, k.restarted.trans h.restarted⟩

theorem SameReach.finish {s t : State} (h : SameReach s t) : SameReach s t.finish :=
  h.trans ⟨by simp, by simp, by simp⟩

theorem SameReach.awake {s t : State} (h : SameReach s t) (awake : Awake s) : Awake t :=
  ⟨h.powered.trans awake.1, h.due.trans awake.2.1, h.restarted.trans awake.2.2⟩

/-! ## The events of a local second -/

theorem State.setRecords_reach (i n : Nat) (new : NoticeEntry) (s : State) :
    SameReach s (State.setRecords i n new s) := by
  unfold State.setRecords
  refine SameReach.finish ?_
  split
  · exact ⟨rfl, rfl, rfl⟩
  · exact ⟨by simp, by simp, by simp⟩

theorem State.swapProgramme_reach (n : Nat) (s : State) : SameReach s (s.swapProgramme n) := by
  unfold State.swapProgramme
  split
  · exact .refl s
  · dsimp only
    split
    · exact .refl s
    · exact s.setRecords_reach _ _ _

theorem State.endProgramme_reach (n : Nat) (s : State) : SameReach s (s.endProgramme n) := by
  unfold State.endProgramme
  split
  · exact .refl s
  · exact s.setRecords_reach _ _ _

theorem State.completeEntry_reach (s : State) : SameReach s s.completeEntry := by
  refine SameReach.trans (t := s.endEntry) ⟨rfl, rfl, rfl⟩ ?_
  unfold State.completeEntry State.selectChannel
  split
  · exact .refl _
  · exact ⟨by simp, by simp, by simp⟩

theorem State.terminal_reach (i : Nat) (s : State) : SameReach s (s.terminal i) := by
  unfold State.terminal
  refine SameReach.finish ?_
  split
  case h_4 =>
    unfold State.previewTerminal
    split
    · exact ⟨rfl, rfl, rfl⟩
    · exact ⟨by simp, by simp, by simp⟩
  all_goals exact ⟨rfl, rfl, rfl⟩

theorem State.extendMeter_reach (i : Nat) (s : State) : SameReach s (s.extendMeter i) := by
  unfold State.extendMeter
  split
  · exact .refl s
  · exact SameReach.finish ⟨rfl, rfl, rfl⟩

/-- An event taken leaves power, the other events due and a RESTART just taken as they are. -/
theorem State.perform_reach (s : State) (e : TickEvent) : SameReach s (s.perform e) := by
  have on : ∀ (p : Prop) [Decidable p] {t : State}, SameReach s t → SameReach s (if p then t else s) := by
    intro p _ t h
    split
    · exact h
    · exact .refl s
  cases e with
  | streamLost i => exact on _ (SameReach.finish ⟨rfl, rfl, rfl⟩)
  | keyWaitExpiry i => exact on _ (SameReach.finish ⟨rfl, rfl, rfl⟩)
  | programmeSwap n => exact on _ (s.swapProgramme_reach n)
  | programmeEnd n => exact on _ (s.endProgramme_reach n)
  | pinEntryTimeout => exact on _ ⟨rfl, rfl, rfl⟩
  | channelEntryTimeout => exact on _ s.completeEntry_reach
  | cutAllowanceEnd => exact on _ (SameReach.finish ⟨by simp, by simp, by simp⟩)
  | refusalExpiry => exact on _ (SameReach.finish ⟨rfl, rfl, rfl⟩)
  | compare i => exact on _ ⟨rfl, rfl, rfl⟩
  | terminal i => exact on _ (s.terminal_reach i)
  | extended i => exact on _ (s.extendMeter_reach i)

theorem State.foldl_perform_reach (es : List TickEvent) (s : State) : SameReach s (es.foldl State.perform s) := by
  induction es generalizing s with
  | nil => exact .refl s
  | cons e es ih => exact (s.perform_reach e).trans (ih _)

/-- Once a part with power has caught up, nothing is left due and no RESTART has just been taken. -/
theorem State.awake_catchUp {s : State} (powered : s.powered = true) : Awake s.catchUp :=
  (State.foldl_perform_reach s.due { s with due := [], keypad := { s.keypad with restarted := false } }).awake
    ⟨powered, rfl, rfl⟩

/-! ## Commands by how they reach the part -/

theorem exec_command (e : TickEvent) (s : State) : exec e.command s = s.takeEvent e := by
  cases e <;> rfl

theorem Instr.command_of_isTickEvent {c : Instr} (event : c.isTickEvent = true) : ∃ e : TickEvent, c = e.command := by
  cases c with
  | streamLost i => exact ⟨.streamLost i, rfl⟩
  | keyWaitExpiry i => exact ⟨.keyWaitExpiry i, rfl⟩
  | programmeSwap n => exact ⟨.programmeSwap n, rfl⟩
  | programmeEnd n => exact ⟨.programmeEnd n, rfl⟩
  | pinEntryTimeout => exact ⟨.pinEntryTimeout, rfl⟩
  | channelEntryTimeout => exact ⟨.channelEntryTimeout, rfl⟩
  | cutAllowanceEnd => exact ⟨.cutAllowanceEnd, rfl⟩
  | refusalExpiry => exact ⟨.refusalExpiry, rfl⟩
  | compare i => exact ⟨.compare i, rfl⟩
  | terminal i => exact ⟨.terminal i, rfl⟩
  | extended i => exact ⟨.extended i, rfl⟩
  | _ => cases event

/-- A key frame acts by its code (R145, R146). -/
theorem exec_keyFrame {c : Instr} (frame : c.isKeyFrame = true) :
    ∃ code held, ∀ s, exec c s = s.takeFrame code held := by
  cases c with
  | digit _ _ | enter _ | chPlus _ | chMinus _ | buy _ | cancel _ | lock _ | rate _ | unassignedKeyCode _ _ =>
    exact ⟨_, _, fun _ => rfl⟩
  | _ => cases frame

/-- Any other command but those of power acts on what the part has caught up to (log entry 7). -/
theorem exec_acts {c : Instr} (event : c.isTickEvent = false) (power : c.isPower = false)
    (frame : c.isKeyFrame = false) : ∃ f, ∀ s, exec c s = s.act f := by
  cases c with
  | powerOn | powerRemoved _ => cases power
  | streamLost _ | keyWaitExpiry _ | programmeSwap _ | programmeEnd _ | pinEntryTimeout | channelEntryTimeout
  | cutAllowanceEnd | refusalExpiry | compare _ | terminal _ | extended _ => cases event
  | digit _ _ | enter _ | chPlus _ | chMinus _ | buy _ | cancel _ | lock _ | rate _ | unassignedKeyCode _ _ =>
    cases frame
  | _ => exact ⟨_, fun _ => rfl⟩

/-- A command acts on a part with power as it acts once the part has caught up. -/
theorem State.act_catchUp (f : State → State) {s : State} (powered : s.powered = true) : s.catchUp.act f = s.act f :=
  (State.act_awake f _ (State.awake_catchUp powered)).trans (congrArg Host.Outcome.next (if_pos powered).symm)

/-- So does a key frame that does not arrive together with a RESTART (log entry 44). -/
theorem State.takeFrame_catchUp (code : Nat) (held : Bool) {s : State} (powered : s.powered = true)
    (apart : s.keypad.restarted = false) : s.catchUp.takeFrame code held = s.takeFrame code held := by
  have caught := (State.awake_catchUp powered).2.2
  unfold State.takeFrame
  rw [caught, apart, State.act_catchUp _ powered]

/-- Settles O3: an event taken leaves the other events due (`State.perform_reach`), and every command that is neither
an event nor one of power acts on the state caught up. -/
theorem events_of_a_tick_come_first : Obligations.events_of_a_tick_come_first := by
  intro c s powered
  refine ⟨rfl, fun e listed => ?_, fun e unlisted => ?_, Instr.command_of_isTickEvent, State.awake_catchUp powered,
    fun event power apart => ?_⟩
  · rw [exec_command, State.takeEvent_due e s powered listed]
  · rw [exec_command, State.takeEvent_notDue e s unlisted]
  · cases frame : c.isKeyFrame with
    | false =>
      obtain ⟨f, acts⟩ := exec_acts event power frame
      rw [acts, acts, State.act_catchUp f powered]
    | true =>
      obtain ⟨code, held, acts⟩ := exec_keyFrame frame
      have apart : s.keypad.restarted = false := apart.resolve_left (by simp [frame])
      rw [acts, acts, State.takeFrame_catchUp code held powered apart]

end Sys2Proof.Machine
end

section
/-!
PROOF. Programme notices, and the swap and end of a programme (O47, O32).
-/

namespace Sys2Proof.Machine

/-! ## The checks of a notice and what it replaces (R49 to R51) -/

section Notice

variable {s : State} {f : NoticeFields} {i : Nat} (entry : s.entryIndex f.channel.toNat = some i)
include entry

/-- A notice of programme 0, or one that ends no later than it starts, is counted (R49, R56). -/
theorem State.notice_bad (slot : Nat) (bad : (programmeOf f).id = 0 ∨ (programmeOf f).stop ≤ (programmeOf f).start) :
    s.notice slot f = s.countDiscard := by
  by_cases unnamed : (programmeOf f).id = 0
  · simp [State.notice, entry, unnamed]
  · simp [State.notice, entry, bad.resolve_left unnamed]

variable (good : ¬ ((programmeOf f).id = 0 ∨ (programmeOf f).stop ≤ (programmeOf f).start))
include good

/-- A good NEXT notice replaces the next record (R51). -/
theorem State.notice_next :
    s.notice 1 f = s.setNotice i { s.noticeAt i with next := some (programmeOf f) } := by
  simp [State.notice, entry, not_or.1 good]

/-- A good CURRENT notice replaces both records: a next one of the same programme is dropped (R50). -/
theorem State.notice_current :
    s.notice 0 f = State.setRecords i f.channel.toNat
      { current := some (programmeOf f)
        next := (s.noticeAt i).next.filter fun n => n.id != (programmeOf f).id } s := by
  simp [State.notice, entry, not_or.1 good]

end Notice

/-- Filtering out a programme, as R50 says it. -/
theorem filter_id_ne (o : Option Programme) (id : Nat) :
    o.filter (fun n => n.id != id) = if o.map (·.id) = some id then none else o := by
  cases o with
  | none => simp
  | some n => by_cases same : n.id = id <;> simp [Option.filter, same]

/-- A state whose purchase unit, meters and store are as they were differs in its notices alone. -/
theorem State.eq_of_notices {s u : State} {notices : Notices} (written : u.notices = notices)
    (only : { u with notices := s.notices, buying := s.buying, meters := s.meters, store := s.store } = s)
    (same : u.buying = s.buying ∧ u.meters = s.meters ∧ u.store = s.store) : u = { s with notices := notices } := by
  obtain ⟨buying, meters, store⟩ := same
  rw [← buying, ← meters, ← store] at only
  rw [← written]
  exact congrArg (fun t : State => { t with notices := u.notices }) only

/-- Settles O47: the checks in their order, and what a good notice replaces (`State.setRecords_facts`). -/
theorem notices_are_checked_and_taken : Obligations.notices_are_checked_and_taken := by
  intro s f awake n p bad written counted
  have current : exec (.currentNotice f) s = .next (s.notice 0 f) := State.act_awake _ s awake
  have next : exec (.nextNotice f) s = .next (s.notice 1 f) := State.act_awake _ s awake
  rw [current, next]
  refine ⟨fun unlisted => ?_, fun i entry => ⟨fun isBad => ?_, fun good => ?_, fun good => ?_⟩⟩
  · rw [State.notice_unlisted 0 unlisted, State.notice_unlisted 1 unlisted]
    exact ⟨rfl, rfl⟩
  · rw [State.notice_bad entry 0 isBad, State.notice_bad entry 1 isBad]
    exact ⟨rfl, rfl⟩
  · rw [State.notice_next entry good]
    rfl
  · rw [State.notice_current entry good, filter_id_ne]
    obtain ⟨u, taken, notices, only, same, changed⟩ := State.setRecords_facts s i n
      { current := some p, next := if (s.noticeAt i).next.map (·.id) = some p.id then none else (s.noticeAt i).next }
    exact ⟨u, _, congrArg _ taken, u.finish_redecided, notices, only,
      fun repeated => State.eq_of_notices notices only (same repeated), changed⟩

/-! ## Swap and end (R52) -/

section Event

variable {s : State} {n i h : Nat} (entry : s.entryIndex n = some i) (time : s.notices.hotelTime = some h)
include entry time

/-- What R52 brings due for a listed channel at hotel time h. -/
theorem State.programmeDue_of_entry : (s.entryIndex n).bind s.programmeDue = (s.noticeAt i).due n h := by
  obtain ⟨e, there, number⟩ := State.entry_of_index entry
  simp [State.programmeDue, entry, there, number, time]

variable (powered : s.powered = true)
include powered

/-- A next record whose start has come becomes current (R52 case 1). -/
theorem exec_programmeSwap {x : Programme} (listed : .programmeSwap n ∈ s.due) (next : (s.noticeAt i).next = some x)
    (started : x.start ≤ h) :
    exec (.programmeSwap n) s = .next (State.setRecords i n { current := some x, next := none }
      { s with due := s.due.erase (.programmeSwap n) }) := by
  have due : (s.noticeAt i).due n h = some (.programmeSwap n) :=
    (NoticeEntry.due_iff _ n h _).2 (.inl ⟨⟨x, next, started⟩, rfl⟩)
  have arises := (State.programmeDue_of_entry entry time).trans due
  have swap (t : State) (hi : t.entryIndex n = some i) (hx : (t.noticeAt i).next = some x) :
      t.swapProgramme n = State.setRecords i n { current := some x, next := none } t := by
    simp [State.swapProgramme, hi, hx]
  exact (State.takeEvent_due _ s powered listed).trans (congrArg _ ((if_pos arises).trans (swap _ entry next)))

/-- A current record whose stop has come, with no next one to take its place, becomes absent (R52 case 2). -/
theorem exec_programmeEnd {c : Programme} (listed : .programmeEnd n ∈ s.due)
    (current : (s.noticeAt i).current = some c) (stopped : c.stop ≤ h)
    (waits : ∀ x, (s.noticeAt i).next = some x → h < x.start) :
    exec (.programmeEnd n) s = .next (State.setRecords i n { s.noticeAt i with current := none }
      { s with due := s.due.erase (.programmeEnd n) }) := by
  have due : (s.noticeAt i).due n h = some (.programmeEnd n) :=
    (NoticeEntry.due_iff _ n h _).2 (.inr ⟨⟨c, current, stopped, waits⟩, rfl⟩)
  have arises := (State.programmeDue_of_entry entry time).trans due
  have ends (t : State) (hi : t.entryIndex n = some i) :
      t.endProgramme n = State.setRecords i n { t.noticeAt i with current := none } t := by
    simp [State.endProgramme, hi]
  exact (State.takeEvent_due _ s powered listed).trans (congrArg _ ((if_pos arises).trans (ends _ entry)))

end Event

/-- All that replacing a channel's records does as an event is taken (R53): no part of it is read from the events left
due. -/
theorem State.setRecords_event_facts (s : State) (due : List TickEvent) (i n : Nat) (new : NoticeEntry) : ∃ u v : State,
    State.setRecords i n new { s with due := due } = v
      ∧ Redecided u v
      ∧ u.notices = { s.notices with entries := s.notices.entries.set i new } ∧ u.due = due
      ∧ { u with notices := s.notices, due := s.due, buying := s.buying, meters := s.meters, store := s.store } = s
      ∧ ((s.noticeAt i).current.map (·.id) = new.current.map (·.id) →
          u.buying = s.buying ∧ u.meters = s.meters ∧ u.store = s.store)
      ∧ ((s.noticeAt i).current.map (·.id) ≠ new.current.map (·.id) → ProgrammeChanged s u n) := by
  obtain ⟨u, taken, notices, only, same, changed⟩ := State.setRecords_facts { s with due := due } i n new
  exact ⟨u, _, taken, u.finish_redecided, notices, congrArg State.due only,
    congrArg (fun t : State => { t with due := s.due }) only, same,
    fun other => ProgrammeChanged.of_same (s' := { s with due := due }) rfl rfl rfl (changed other)⟩

/-- Settles O32: both events replace the channel's records (R52), and replacing them is said once. -/
theorem swap_and_end_change_the_programme : Obligations.swap_and_end_change_the_programme := by
  intro s n i h powered entry time old changed
  refine ⟨fun x listed next started => ?_, fun c listed current stopped waits => ?_⟩
  · obtain ⟨u, v, taken, facts⟩ := s.setRecords_event_facts _ i n { current := some x, next := none }
    exact ⟨u, v, (exec_programmeSwap entry time powered listed next started).trans (congrArg _ taken), facts⟩
  · obtain ⟨u, v, taken, facts⟩ := s.setRecords_event_facts _ i n { old with current := none }
    exact ⟨u, v, (exec_programmeEnd entry time powered listed current stopped waits).trans (congrArg _ taken), facts⟩

end Sys2Proof.Machine
end

section
/-!
PROOF. The charge of a purchase and the sums it reads (O40).
-/

namespace Sys2Proof.Machine

/-! ## Sums over the store's slots -/

/-- An entry of lists of one length, strung together. -/
theorem getElem?_flatMap_uniform {α β : Type} (g : α → List β) {w : Nat} (pos : 0 < w) (xs : List α)
    (uniform : ∀ x ∈ xs, (g x).length = w) (j : Nat) :
    (xs.flatMap g)[j]? = xs[j / w]?.bind fun x => (g x)[j % w]? := by
  induction xs generalizing j with
  | nil => simp
  | cons x xs ih =>
    have here : (g x).length = w := uniform x List.mem_cons_self
    rw [List.flatMap_cons]
    by_cases inside : j < w
    · rw [List.getElem?_append_left (by omega), Nat.div_eq_of_lt inside, Nat.mod_eq_of_lt inside]
      rfl
    · have beyond : w ≤ j := Nat.le_of_not_lt inside
      rw [List.getElem?_append_right (by omega), here, ih (fun y hy => uniform y (List.mem_cons_of_mem _ hy)),
        Nat.div_eq_sub_div pos beyond, Nat.mod_eq_sub_mod beyond]
      rfl

/-- The store's slots are those of the record numbers 1 to 256, in order (section 7.1). -/
theorem FolioStore.slots_eq {f : FolioStore} (whole : f.Whole) :
    f.slots = (List.range' 1 256).map fun n => (f.slot n, n) := by
  obtain ⟨four, uniform⟩ := whole
  have entry := getElem?_flatMap_uniform Sector.slots (by decide : 0 < 64) f.sectors uniform
  refine List.ext_getElem? fun j => ?_
  rw [FolioStore.slots, List.getElem?_zipIdx, entry, List.getElem?_map]
  by_cases inside : j < 256
  · have sector : j / 64 < f.sectors.length := by omega
    have slot : j % 64 < f.sectors[j / 64].slots.length := by
      rw [uniform _ (List.getElem_mem sector)]
      exact Nat.mod_lt _ (by decide)
    rw [List.getElem?_range' inside]
    simp [FolioStore.slot, FolioStore.sector, List.getD_eq_getElem?_getD, sector, slot, Nat.add_comm]
  · have pastSectors : f.sectors[j / 64]? = none := List.getElem?_eq_none (by omega)
    have pastNumbers : (List.range' 1 256)[j]? = none := List.getElem?_eq_none (by simpa using inside)
    rw [pastSectors, pastNumbers]
    rfl

/-- A sum over the entries that pass a test, each of the others giving nothing. -/
theorem sum_map_filter {α : Type} (p : α → Bool) (g : α → Nat) (xs : List α) :
    ((xs.filter p).map g).sum = (xs.map fun x => if p x then g x else 0).sum := by
  induction xs with
  | nil => rfl
  | cons x xs ih => cases h : p x <;> simp [h, ih]

/-- The charge a record adds to a sum over the records that count and pass a test. -/
def FolioStore.chargeIf (f : FolioStore) (p : Slot → Bool) (n : Nat) : Nat :=
  if (!f.resumed && (f.slot n).isRecordOf f.folio) && p (f.slot n) then (f.slot n).charge.getD 0 else 0

/-- A sum over records that pass a test, record number by record number. -/
theorem FolioStore.sum_records {f : FolioStore} (whole : f.Whole) (p : Slot → Bool) :
    ((f.records.filter fun x => p x.1).map fun x => x.1.charge.getD 0).sum
      = ((List.range' 1 256).map (f.chargeIf p)).sum := by
  rw [FolioStore.records, List.filter_filter, sum_map_filter, FolioStore.slots_eq whole, List.map_map]
  refine congrArg List.sum (List.map_congr_left fun n _ => ?_)
  simp only [Function.comp_apply, FolioStore.chargeIf, Bool.and_comm]

/-- A record's charge counts while it is COMMITTED, REPORTED or SETTLED (R101, R127). -/
theorem Slot.charged_iff (sl : Slot) :
    sl.charged = true ↔ sl.state = .committed ∨ sl.state = .reported ∨ sl.state = .settled := by
  unfold Slot.charged
  cases sl.state <;> simp

/-- A commit time in the current hotel day (R46, R101). -/
theorem State.inCurrentDay_iff (s : State) (sl : Slot) : s.inCurrentDay sl = true ↔
    ∃ t h, sl.commitTime = some t ∧ s.notices.hotelTime = some h
      ∧ hotelDay s.buying.dayStart t = hotelDay s.buying.dayStart h := by
  unfold State.inCurrentDay State.hotelDayIndex
  cases s.notices.hotelTime <;> cases sl.commitTime <;> simp

/-! ## The charge (R100) -/

/-- The charge in its four steps: over a day cap no more than what the day leaves, and never over 81,918. -/
theorem State.chargeNow_eq (s : State) (price : Nat) :
    let gross := price + taxOf price s.buying.taxRate
    (s.chargeNow price : Int) = min (if 0 < s.buying.dayCap then max 0 (min (gross : Int)
      (s.buying.dayCap - s.dayCharges)) else gross) 81918 := by
  intro gross
  have charge : s.chargeNow price =
      min (if 0 < s.buying.dayCap then min gross (s.buying.dayCap - s.dayCharges) else gross) 81918 := rfl
  rw [charge]
  split <;> omega

/-- Under a day cap the charge fits in what the day leaves. -/
theorem State.chargeNow_capped (s : State) (price : Nat) (capped : 0 < s.buying.dayCap) :
    s.chargeNow price ≤ s.buying.dayCap - s.dayCharges := by
  have charge : s.chargeNow price = min (min _ (s.buying.dayCap - s.dayCharges)) 81918 :=
    congrArg (min · 81918) (if_pos capped)
  rw [charge]
  exact (Nat.min_le_left _ _).trans (Nat.min_le_right _ _)

/-- The pending charges, commit by commit (R101). -/
theorem State.pendingCharges_eq (s : State) : s.pendingCharges =
    (s.buying.commits.map fun c => if (s.store.slot c.record).committed = true then 0 else c.charge).sum := by
  rw [State.pendingCharges, sum_map_filter]
  refine congrArg List.sum (List.map_congr_left fun c _ => ?_)
  cases (s.store.slot c.record).committed <;> rfl

/-- Settles O40: the charge step by step, and each sum record by record over the 256 slots. -/
theorem charge_rule : Obligations.charge_rule := by
  intro s price day charged today sumIs tax gross capped
  refine ⟨s.chargeNow_eq price, s.chargeNow_capped price, decide_eq_true_iff, rfl, s.pendingCharges_eq,
    fun sized => ?_⟩
  obtain ⟨-, -, -, -, -, -, -, -, whole⟩ := sized
  have sums (p : Slot → Bool) (counts : Slot → Prop)
      (test : ∀ sl, ((!s.store.resumed && sl.isRecordOf s.store.folio) && p sl) = true ↔ counts sl) :
      sumIs ((s.store.records.filter fun x => p x.1).map fun x => x.1.charge.getD 0).sum counts :=
    ⟨s.store.chargeIf p, FolioStore.sum_records whole p, fun n =>
      ⟨fun counted => if_pos ((test _).2 counted), fun uncounted => if_neg (mt (test _).1 uncounted)⟩⟩
  have counted (sl : Slot) :
      ((!s.store.resumed && sl.isRecordOf s.store.folio) && sl.charged) = true ↔ charged sl := by
    simp [charged, Slot.isRecordOf, Slot.charged_iff, and_assoc]
  refine ⟨sums Slot.charged charged counted,
    sums (fun sl => sl.charged && s.inCurrentDay sl) (fun sl => charged sl ∧ today sl) fun sl => ?_⟩
  rw [← Bool.and_assoc, Bool.and_eq_true, counted, State.inCurrentDay_iff]
  rfl

end Sys2Proof.Machine
end

section
/-!
PROOF. A time beacon sets hotel time, and the first hands on the restoration of rentals (O45).
-/

namespace Sys2Proof.Machine

/-- A restoration handed on while the scan after RESTART is awaited waits for it (R143). -/
theorem State.handRestoration_awaiting {s : State} (awaiting : s.store.awaitingScan = true) :
    s.handRestoration = { s with store := { s.store with restoreWaiting := true } } := if_pos awaiting

/-- A restoration handed on at any other time is made at once (R143). -/
theorem State.handRestoration_scanned {s : State} (scanned : s.store.awaitingScan = false) :
    s.handRestoration = s.restoreRentals := if_neg (by simp [scanned])

/-- No rental is restored while the folio closes (R143). -/
theorem State.restoreRentals_closing {s : State} (closing : s.store.closing = true) : s.restoreRentals = s := by
  unfold State.restoreRentals
  split
  · rfl
  · exact if_pos closing

/-- Settles O45: the first beacon after power-on hands the restoration on, by the store's state; every beacon then
re-decides. -/
theorem beacon_sets_hotel_time : Obligations.beacon_sets_hotel_time := by
  intro s time awake told
  have first (pending : s.notices.restorationPending = true) :
      State.beacon time.toNat s = told.handRestoration.finish := congrArg State.finish (if_pos pending)
  have redecided {t : State} (h : State.beacon time.toNat s = t.finish) : Redecided t (State.beacon time.toNat s) :=
    State.redecided_of_finish h
  refine ⟨State.beacon time.toNat s, State.act_awake _ s awake, fun later => ?_, fun pending awaiting => ?_,
    fun pending scanned closing => ?_, fun pending scanned _ => ?_⟩
  · exact redecided (congrArg State.finish (if_neg (by simp [later])))
  · exact redecided ((first pending).trans (congrArg _ (State.handRestoration_awaiting awaiting)))
  · exact redecided ((first pending).trans
      (congrArg _ ((State.handRestoration_scanned (s := told) scanned).trans (State.restoreRentals_closing closing))))
  · exact redecided ((first pending).trans (congrArg _ (State.handRestoration_scanned scanned)))

end Sys2Proof.Machine
end

section
/-!
PROOF. The standing settings (O25), SET CEILING (O27) and the loads of the rating lock and the price table (O28).
-/

namespace Sys2Proof.Machine

/-! ## Commands that change a standing setting (R59 checks 2 and 3, R181) -/

section Standing

variable {s : State} {t : Target} {k : CommandKind} {check : State → Option Reason} {effect : State → State}
variable (awake : Awake s) (here : s.addressed t = true) (target : targetAccepted k t = true)
include awake here target

/-- What the store refuses of a standing change that is in range: all while CLOSING, and all when its queue is full
with no unstarted WRITE SETTINGS; what it lets pass is taken. -/
theorem State.act_standing (passes : check s = s.store.standingCheck) :
    let busy := s.store.closing = true ∨ s.store.awaitingScan = true
    let full := 8 ≤ s.store.queue.length ∧ ∀ q ∈ s.store.queue.tail, q.op.isWriteSettings = false
    let outcome := s.act fun s => s.command t k check effect
    (busy → outcome = .next (s.refuse k .busy))
      ∧ (¬ busy → full → outcome = .next (s.refuse k .full))
      ∧ (¬ busy → ¬ full → outcome = .next (effect s)) :=
  ⟨fun busy => State.act_refused awake here target (passes.trans (FolioStore.standingCheck_busy busy)),
    fun free full => State.act_refused awake here target (passes.trans (FolioStore.standingCheck_full free full)),
    fun free room => State.act_taken awake here target (passes.trans (FolioStore.standingCheck_none free room))⟩

/-- A command whose only check beside its range is the store's. -/
theorem State.act_setting {inRange : Prop} (outside : ¬ inRange → check s = some .range)
    (inside : inRange → check s = s.store.standingCheck) :
    let busy := s.store.closing = true ∨ s.store.awaitingScan = true
    let full := 8 ≤ s.store.queue.length ∧ ∀ q ∈ s.store.queue.tail, q.op.isWriteSettings = false
    let outcome := s.act fun s => s.command t k check effect
    ((¬ inRange → outcome = .next (s.refuse k .range))
        ∧ (inRange → busy → outcome = .next (s.refuse k .busy))
        ∧ (inRange → ¬ busy → full → outcome = .next (s.refuse k .full)))
      ∧ (inRange → ¬ busy → ¬ full → outcome = .next (effect s)) :=
  have store (range : inRange) := State.act_standing (effect := effect) awake here target (inside range)
  ⟨⟨fun out => State.act_refused awake here target (outside out), fun range => (store range).1,
    fun range => (store range).2.1⟩, fun range => (store range).2.2⟩

end Standing

/-! ## SET CUT MODE (R174) -/

theorem boolOf_eq_none_iff {n : Nat} : boolOf n = none ↔ 1 < n := by
  match n with
  | 0 | 1 => simp [boolOf]
  | _ + 2 => simp [boolOf]

theorem cutModeOf_eq_none_iff {n : Nat} : cutModeOf n = none ↔ 1 < n := by
  match n with
  | 0 | 1 => simp [cutModeOf]
  | _ + 2 => simp [cutModeOf]

theorem cutModeOf_inRange {n : Nat} (h : n ≤ 1) :
    cutModeOf n = some (if n = 0 then .immediate else .boundary) := by
  match n with
  | 0 | 1 => rfl

/-- A cut mode that ends no cut: the WRITE SETTINGS is asked for, then the decision is taken. -/
theorem State.setCutMode_plain {s : State} {m : CutMode}
    (uncut : ¬ (m = .immediate ∧ ∃ start, s.composer.output = .cutting start)) :
    s.setCutMode (some m) = (State.requestSettings { s with composer := { s.composer with cutMode := m } }).finish := by
  unfold State.setCutMode
  dsimp only
  split
  · rename_i start cut
    exact absurd ⟨rfl, start, by simpa using cut⟩ uncut
  · rfl

/-- IMMEDIATE in CUTTING starts the slate that the decision holds. -/
theorem State.setCutMode_cutting {s : State} {start : Word32} {k : Slate} (cut : s.composer.output = .cutting start)
    (held : s.composer.decision = some (.slate k)) :
    let asked := State.requestSettings { s with composer := { s.composer with cutMode := .immediate } }
    s.setCutMode (some .immediate)
      = State.finish { asked with composer := { asked.composer with output := .slate k none 0 } } := by
  simp [State.setCutMode, State.beginSlate, cut, held]

/-- A slate that the decision holds is left in emission by a decision that stays. -/
theorem Redecided.slate_stays {s u : State} {e : ChannelEntry} {k : Slate} (done : Redecided s u)
    (tuned : s.tunedEntry = some e) (held : s.composer.decision = some (.slate k))
    (stays : (s.viewDecision e).1 = .slate k) (emits : s.composer.output = .slate k none 0) :
    u.composer.output = .slate k none 0 ∧ u.composer.decision = some (.slate k) := by
  have follows := done.output e tuned
  rw [stays] at follows
  exact ⟨(follows.kept held (.inr (by simp [emits]))).trans emits, stays ▸ done.decision e tuned⟩

/-- Settles O25: each command's range, the store's part of the checks (`State.act_setting`), and the settings in force
with their write asked for. -/
theorem standing_settings_take_effect_at_once : Obligations.standing_settings_take_effect_at_once := by
  intro s t room group minutes enabled tax cap day credit mode awake here busy full refuses setting
  have taken {cmd : Instr} {u : State} {new : State} (h : exec cmd s = .next u)
      (finished : u = new.requestSettings.finish) : ∃ u, exec cmd s = .next u ∧ Redecided new.requestSettings u :=
    ⟨u, h, State.redecided_of_finish finished⟩
  have assign (target : targetAccepted .assignRoom t = true) :=
    State.act_setting (effect := State.assignRoom room group) (check := fun s => s.roomCheck room group)
      (inRange := room ≤ 9999 ∧ group ≤ 63) awake here target (fun out => if_pos (by omega))
      (fun range => if_neg (by omega))
  have unlock := State.act_setting (k := .setUnlockMinutes) (effect := State.setUnlockMinutes minutes)
    (check := fun s => s.unlockMinutesCheck minutes) (inRange := 10 ≤ minutes ∧ minutes ≤ 240) awake here rfl
    (fun out => if_pos (by omega)) (fun range => if_neg (by omega))
  have billing := State.act_setting (k := .setBilling) (effect := State.setBilling enabled tax cap day credit)
    (check := fun s => s.billingCheck enabled cap day credit)
    (inRange := enabled ≤ 1 ∧ cap ≤ 200000 ∧ day ≤ 23 ∧ credit ≤ 1000000) awake here rfl
    (fun out => if_pos (by rw [boolOf_eq_none_iff]; omega)) (fun range => if_neg (by rw [boolOf_eq_none_iff]; omega))
  have cut := State.act_setting (k := .setCutMode) (effect := State.setCutMode (cutModeOf mode))
    (check := fun s => s.cutModeCheck (cutModeOf mode)) (inRange := mode ≤ 1) awake here rfl
    (fun out => if_pos (by rw [cutModeOf_eq_none_iff]; omega))
    (fun range => if_neg (by rw [cutModeOf_eq_none_iff]; omega))
  refine ⟨fun target => ⟨(assign target).1, fun range free vacant => taken ((assign target).2 range free vacant) rfl⟩,
    ⟨unlock.1, fun range free vacant => taken (unlock.2 range free vacant) rfl⟩,
    ⟨billing.1, fun range free vacant => taken (billing.2 range free vacant) rfl⟩,
    fun uncut => ⟨cut.1, fun range free vacant => taken (cut.2 range free vacant) ?_⟩, cut.1, ?_⟩
  · rw [cutModeOf_inRange range]
    refine State.setCutMode_plain fun ⟨immediate, cutting⟩ => uncut ⟨?_, cutting⟩
    by_contra boundary
    simp [boundary] at immediate
  · intro k start zero cutting free vacant held asked
    subst zero
    have done := State.finish_redecided
      { asked with composer := { asked.composer with output := .slate k none 0 } }
    have composer : asked.composer = { s.composer with cutMode := .immediate } := by simp [asked]
    refine ⟨_, (cut.2 (Nat.zero_le 1) free vacant).trans (congrArg _ (State.setCutMode_cutting cutting held)), ?_, done,
      fun e tuned stays => Redecided.slate_stays done (e := e) ?_ ?_ ?_ rfl⟩
    · exact (congrArg Composer.cutMode done.composer).trans (congrArg Composer.cutMode composer)
    · have channels := congrArg Composer.channels composer
      have tunedTo := congrArg Composer.tuned composer
      exact (State.tunedEntry_congr tunedTo channels).trans tuned
    · exact (congrArg Composer.decision composer).trans held
    · exact (congrArg Prod.fst (State.viewDecision_congr rfl rfl rfl)).trans stays

/-! ## SET CEILING (R59 to R61) -/

theorem threshold_outOfRange_iff (threshold : Option Nat) :
    (threshold.any fun r => decide (r < 1) || decide (8 < r)) = true
      ↔ ¬ ∀ r, threshold = some r → 1 ≤ r ∧ r ≤ 8 := by
  cases threshold with
  | none => simp
  | some r =>
    simp only [Option.any_some, Bool.or_eq_true, decide_eq_true_eq, Option.some.injEq, forall_eq']
    omega

/-- A ceiling in range is checked by the store only where it is standing. -/
theorem State.ceilingCheck_inRange {s : State} {ceiling scope : Nat} {threshold : Option Nat}
    (range : ceiling ≤ 7 ∧ scope ≤ 1 ∧ ∀ r, threshold = some r → 1 ≤ r ∧ r ≤ 8) :
    s.ceilingCheck ceiling scope threshold
      = if ceilingStanding scope threshold then s.store.standingCheck else none := by
  refine if_neg ?_
  rw [threshold_outOfRange_iff, not_or, not_or, Nat.not_lt, Nat.not_lt, not_not]
  exact range

theorem State.ceilingCheck_outOfRange {s : State} {ceiling scope : Nat} {threshold : Option Nat}
    (out : ¬ (ceiling ≤ 7 ∧ scope ≤ 1 ∧ ∀ r, threshold = some r → 1 ≤ r ∧ r ≤ 8)) :
    s.ceilingCheck ceiling scope threshold = some .range := by
  refine if_pos ?_
  rwa [threshold_outOfRange_iff, ← not_le, ← not_le, ← not_and_or, ← not_and_or]

theorem ceilingStanding_iff (scope : Nat) (threshold : Option Nat) :
    ceilingStanding scope threshold = true ↔ scope = 1 ∨ threshold ≠ none := by
  cases threshold <;> simp [ceilingStanding]

/-- Settles O27: the checks, the store's among them only for a standing ceiling, and the lock `withCeiling` leaves. -/
theorem set_ceiling_by_target : Obligations.set_ceiling_by_target := by
  intro s t ceiling scope threshold awake here cmd inRange standing busy full many moved new
  have lock : s.lock.withCeiling (targetWide t) ceiling scope threshold = new.lock := by
    cases t <;> rfl
  have isStanding := ceilingStanding_iff scope threshold
  have effect : State.setCeiling (targetWide t) ceiling scope threshold s
      = State.finish (if ceilingStanding scope threshold then new.requestSettings else new) := by
    unfold State.setCeiling
    rw [lock]
  have store (range : inRange) (h : standing) :=
    State.act_standing (effect := State.setCeiling (targetWide t) ceiling scope threshold)
      (check := fun s => s.ceilingCheck ceiling scope threshold) (k := .setCeiling) awake here rfl
      ((State.ceilingCheck_inRange range).trans (if_pos (isStanding.2 h)))
  refine ⟨fun out => State.act_refused awake here rfl (State.ceilingCheck_outOfRange out),
    fun range h => (store range h).1, fun range h => (store range h).2.1,
    fun range h free room => ⟨_, (store range h).2.2 free room, ?_⟩, fun range h => ⟨_, State.act_taken
      (check := fun s => s.ceilingCheck ceiling scope threshold) awake here rfl
      ((State.ceilingCheck_inRange range).trans (if_neg (mt isStanding.1 h))), ?_⟩, fun wide => ?_⟩
  · exact State.redecided_of_finish (effect.trans (congrArg _ (if_pos (isStanding.2 h))))
  · exact State.redecided_of_finish (effect.trans (congrArg _ (if_neg (mt isStanding.1 h))))
  · have lowers (held value : Nat) : moved held value ≤ held := by
      rcases wide with rfl | ⟨g, rfl⟩
      · exact Nat.min_le_right _ _
      · exact Nat.min_le_right _ _
    refine ⟨lowers _ _, ?_, ?_⟩
    · show (if scope = 1 then moved s.lock.standingF ceiling else s.lock.standingF) ≤ s.lock.standingF
      split
      · exact lowers _ _
      · exact le_rfl
    · cases threshold with
      | none => exact le_rfl
      | some r => exact lowers _ _

/-! ## LOAD RATING MAP, SET PIN, LOAD PRICE and SET CREDIT (R57, R65, R96, R99) -/

theorem map_getD_range {xs : List Nat} {n : Nat} (size : xs.length = n) (d : Nat) :
    (List.range n).map (fun i => xs.getD i d) = xs := by
  subst size
  refine List.ext_getElem (by simp) fun i _ h => ?_
  simp [List.getD_eq_getElem?_getD, h]

/-- The map's check of sixteen classes, class by class. -/
theorem ratingMapCheck_eq {classes : List Nat} (size : classes.length = 16) :
    ratingMapCheck classes = if ∀ c ∈ classes, c ≤ 7 then none else some .range := by
  have each : ((List.range 16).all fun i => decide (classes.getD i 255 ≤ 7)) = classes.all fun c => decide (c ≤ 7) := by
    conv_rhs => rw [← map_getD_range size 255, List.all_map]
    rfl
  unfold ratingMapCheck
  rw [each]
  simp

theorem pinInRange_iff (d : PinDigits) : pinInRange d = true ↔ d.d1 ≤ 9 ∧ d.d2 ≤ 9 ∧ d.d3 ≤ 9 ∧ d.d4 ≤ 9 := by
  simp [pinInRange, and_assoc]

/-- Closing the window frees meter 0 while it is in use UNLOCK (R72). -/
theorem State.closeWindow_eq (s : State) : s.closeWindow =
    { s with meters := if (s.meter 0).use = .unlock then s.meters.set 0 Meter.free else s.meters } := by
  unfold State.closeWindow State.unlockOpen
  by_cases h : (s.meter 0).use = .unlock
  · rw [if_pos (by simpa using h), if_pos h]
    rfl
  · rw [if_neg (by simpa using h), if_neg h]

/-- Settles O28: each load's check, then what it writes. -/
theorem loads_of_lock_and_prices : Obligations.loads_of_lock_and_prices := by
  intro s t classes pin cls price minutes seconds limit awake here entry
  refine ⟨fun size => ⟨fun ⟨c, listed, high⟩ => ?_, fun low => ?_⟩, fun d set high => ?_,
    fun d set h1 h2 h3 h4 => ?_, ?_, fun out => ?_, fun h1 h2 h3 h4 h5 => ?_, fun high => ?_, fun low => ?_⟩
  · refine State.act_refused awake here rfl ((ratingMapCheck_eq size).trans (if_neg fun low => ?_))
    exact absurd (low c listed) (Nat.not_le.2 high)
  · refine ⟨_, State.act_taken awake here rfl ((ratingMapCheck_eq size).trans (if_pos low)), ?_⟩
    refine State.redecided_of_finish ?_
    unfold State.loadRatingMap
    rw [map_getD_range size]
  · subst set
    refine State.act_refused awake here rfl (if_neg ?_)
    rw [Option.all_some, pinInRange_iff]
    omega
  · subst set
    exact ⟨_, State.act_taken awake here rfl (if_pos ((pinInRange_iff d).2 ⟨h1, h2, h3, h4⟩)),
      State.finish_redecided _⟩
  · exact ⟨_, State.act_taken awake here rfl rfl,
      State.redecided_of_finish (congrArg State.finish (State.closeWindow_eq _))⟩
  · refine State.act_refused awake here rfl ?_
    unfold priceCheck
    by_cases first : 15 < cls ∨ minutes < 1 ∨ 4320 < minutes ∨ 600 < seconds
    · exact if_pos first
    · exact (if_neg first).trans (if_pos (by tauto))
  · refine ⟨_, State.act_taken awake here rfl ?_, State.finish_redecided _⟩
    exact (if_neg (by omega)).trans (if_neg fun ⟨zero, priced⟩ => priced (h5 zero))
  · exact State.act_refused awake here rfl (if_pos high)
  · exact State.act_taken awake here rfl (if_neg (Nat.not_lt.2 low))

end Sys2Proof.Machine
end

section
/-!
PROOF. The view decision, row by row (O23).
-/

namespace Sys2Proof.Machine

/-! ## The lock verdict (R63) -/

section Verdict

variable {s : State} {c : Nat}

theorem State.lockoutRunning_iff : s.lockoutRunning = true ↔ (s.meter 0).use = .lockout := beq_iff_eq

theorem State.unlockOpen_iff : s.unlockOpen = true ↔ (s.meter 0).use = .unlock := beq_iff_eq

/-- A class is LOCKED above G, and from R on with no PIN set or in a lockout. -/
theorem State.verdict_locked
    (locked : s.lock.g < c ∨ s.lock.r ≤ c ∧ (s.lock.pin = none ∨ (s.meter 0).use = .lockout)) :
    s.verdict c = .locked := by
  unfold State.verdict
  by_cases above : s.lock.g < c
  · exact if_pos above
  · obtain ⟨restricted, shut⟩ := locked.resolve_left above
    rw [if_neg above, if_neg (Nat.not_lt.2 restricted)]
    by_cases unset : s.lock.pin = none
    · exact if_pos unset
    · exact (if_neg unset).trans (if_pos (State.lockoutRunning_iff.2 (shut.resolve_left unset)))

variable (free : ¬ (s.lock.g < c ∨ s.lock.r ≤ c ∧ (s.lock.pin = none ∨ (s.meter 0).use = .lockout)))
include free

/-- A restricted class asks for the PIN until the unlock window is open. -/
theorem State.verdict_pin (restricted : s.lock.r ≤ c) (shut : (s.meter 0).use ≠ .unlock) : s.verdict c = .pin := by
  rw [not_or, not_and, not_or] at free
  obtain ⟨below, unlocked⟩ := free
  obtain ⟨set, quiet⟩ := unlocked restricted
  unfold State.verdict
  rw [if_neg below, if_neg (Nat.not_lt.2 restricted), if_neg set, if_neg (mt State.lockoutRunning_iff.1 quiet)]
  exact if_neg (mt State.unlockOpen_iff.1 shut)

theorem State.verdict_allowed (opens : ¬ (s.lock.r ≤ c ∧ (s.meter 0).use ≠ .unlock)) : s.verdict c = .allowed := by
  rw [not_or, not_and, not_or] at free
  obtain ⟨below, unlocked⟩ := free
  unfold State.verdict
  rw [if_neg below]
  by_cases restricted : s.lock.r ≤ c
  · obtain ⟨set, quiet⟩ := unlocked restricted
    rw [if_neg (Nat.not_lt.2 restricted), if_neg set, if_neg (mt State.lockoutRunning_iff.1 quiet)]
    exact if_pos (State.unlockOpen_iff.2 (by simpa [restricted] using opens))
  · exact if_pos (Nat.lt_of_not_le restricted)

end Verdict

/-! ## The purchase unit's answer (R102) -/

section Answer

variable {s : State} {n : Nat} {p : Programme}

theorem State.rentalOf_isSome_iff (id : Nat) :
    (s.rentalOf id).isSome = true ↔ ∃ r ∈ s.buying.rentals, r.programme = id := by
  simp [State.rentalOf]

theorem State.previewOf_isSome_iff (id : Nat) :
    (s.previewOf id).isSome = true ↔ ∃ q ∈ s.buying.previews, q.programme = id := by
  simp [State.previewOf]

theorem State.directCommit_iff (id : Nat) :
    (s.buying.commits.any fun c => c.programme == id && c.kind == .direct) = true
      ↔ ∃ c ∈ s.buying.commits, c.programme = id ∧ c.kind = .direct := by
  simp

/-- The refusal that stands against a programme on a channel (R111). -/
def State.refusalOf (s : State) (n : Nat) (p : Programme) : Option BuyRefusal :=
  s.buying.refusal.filter fun r => r.programme == p.id && r.channel == n

theorem State.refusalOf_eq_some_iff (r : BuyRefusal) : s.refusalOf n p = some r
    ↔ s.buying.refusal = some r ∧ r.programme = p.id ∧ r.channel = n := by
  simp [State.refusalOf, Option.filter_eq_some_iff]

theorem State.refusalOf_eq_none_iff : s.refusalOf n p = none
    ↔ ∀ r, s.buying.refusal = some r → ¬ (r.programme = p.id ∧ r.channel = n) := by
  simp only [Option.eq_none_iff_forall_ne_some, ne_eq, State.refusalOf_eq_some_iff, not_and]

theorem State.answer_rental (rental : ∃ r ∈ s.buying.rentals, r.programme = p.id) : s.answer n p = .goOn :=
  if_pos ((State.rentalOf_isSome_iff _).2 rental)

variable (noRental : ¬ ∃ r ∈ s.buying.rentals, r.programme = p.id)
include noRental

theorem State.answer_refused {r : BuyRefusal} (refused : s.refusalOf n p = some r) :
    s.answer n p = .slate r.slate := by
  unfold State.refusalOf at refused
  unfold State.answer
  rw [if_neg (mt (State.rentalOf_isSome_iff _).1 noRental), refused]

variable (unrefused : s.refusalOf n p = none)
include unrefused

/-- The rows of R102 below its refusals. -/
theorem State.answer_unrefused : s.answer n p =
    if s.buying.commits.any fun c => c.programme == p.id && c.kind == .direct then .slate .wait
    else if (s.previewOf p.id).isSome then .goOn
    else if !s.buying.billing then .slate .unavailable
    else if s.canPreview p then .preview
    else if s.freeMeter.isNone then .slate .unavailable
    else .slate .offer := by
  unfold State.refusalOf at unrefused
  unfold State.answer
  rw [if_neg (mt (State.rentalOf_isSome_iff _).1 noRental), unrefused]

/-- A direct buy under way waits. -/
theorem State.answer_direct (direct : ∃ c ∈ s.buying.commits, c.programme = p.id ∧ c.kind = .direct) :
    s.answer n p = .slate .wait := by
  rw [State.answer_unrefused noRental unrefused, if_pos ((State.directCommit_iff _).2 direct)]

variable (noDirect : ¬ ∃ c ∈ s.buying.commits, c.programme = p.id ∧ c.kind = .direct)
include noDirect

theorem State.answer_previewed (previewed : ∃ q ∈ s.buying.previews, q.programme = p.id) :
    s.answer n p = .goOn := by
  rw [State.answer_unrefused noRental unrefused, if_neg (mt (State.directCommit_iff _).1 noDirect),
    if_pos ((State.previewOf_isSome_iff _).2 previewed)]

variable (unseen : ¬ ∃ q ∈ s.buying.previews, q.programme = p.id)
include unseen

/-- A programme with no rental, refusal, direct buy or preview is offered, if it can be sold. -/
theorem State.answer_unseen : s.answer n p =
    if !s.buying.billing then .slate .unavailable
    else if s.canPreview p then .preview
    else if s.freeMeter.isNone then .slate .unavailable
    else .slate .offer := by
  rw [State.answer_unrefused noRental unrefused, if_neg (mt (State.directCommit_iff _).1 noDirect),
    if_neg (mt (State.previewOf_isSome_iff _).1 unseen)]

theorem State.answer_unbilled (off : s.buying.billing = false) : s.answer n p = .slate .unavailable := by
  rw [State.answer_unseen noRental unrefused noDirect unseen, off]
  rfl

theorem State.answer_preview (can : s.canPreview p = true) : s.answer n p = .preview := by
  have on : s.buying.billing = true := by
    by_contra off
    simp [State.canPreview, off] at can
  rw [State.answer_unseen noRental unrefused noDirect unseen, on, can]
  rfl

variable (on : s.buying.billing = true) (cannot : s.canPreview p = false)
include on cannot

theorem State.answer_no_meter
    (busy : ¬ ∃ i, 1 ≤ i ∧ i ≤ 7 ∧ (s.meter i).use = .free ∧ (s.meter i).hold = none) :
    s.answer n p = .slate .unavailable := by
  rw [State.answer_unseen noRental unrefused noDirect unseen, on, cannot, s.freeMeter_none.2 busy]
  rfl

theorem State.answer_offer (free : ∃ i, 1 ≤ i ∧ i ≤ 7 ∧ (s.meter i).use = .free ∧ (s.meter i).hold = none) :
    s.answer n p = .slate .offer := by
  have room : s.freeMeter.isNone = false :=
    Option.isNone_eq_false_iff.2 (Option.isSome_iff_ne_none.2 (mt s.freeMeter_none.1 (not_not.2 free)))
  rw [State.answer_unseen noRental unrefused noDirect unseen, on, cannot, room]
  rfl

end Answer

/-- When the purchase unit begins a preview (R102, R103). -/
theorem State.answer_eq_preview_iff (s : State) (n : Nat) (p : Programme) : s.answer n p = .preview ↔
    (¬ ∃ r ∈ s.buying.rentals, r.programme = p.id) ∧ s.refusalOf n p = none
      ∧ (¬ ∃ c ∈ s.buying.commits, c.programme = p.id ∧ c.kind = .direct)
      ∧ (¬ ∃ q ∈ s.buying.previews, q.programme = p.id) ∧ s.canPreview p = true := by
  refine ⟨fun begins => ?_, fun ⟨noRental, unrefused, noDirect, unseen, can⟩ =>
    State.answer_preview noRental unrefused noDirect unseen can⟩
  by_cases rental : ∃ r ∈ s.buying.rentals, r.programme = p.id
  · cases (State.answer_rental rental).symm.trans begins
  cases refused : s.refusalOf n p with
  | some r => cases (State.answer_refused rental refused).symm.trans begins
  | none =>
    by_cases direct : ∃ c ∈ s.buying.commits, c.programme = p.id ∧ c.kind = .direct
    · cases (State.answer_direct rental refused direct).symm.trans begins
    by_cases previewed : ∃ q ∈ s.buying.previews, q.programme = p.id
    · cases (State.answer_previewed rental refused direct previewed).symm.trans begins
    refine ⟨rental, rfl, direct, previewed, ?_⟩
    rw [State.answer_unseen rental refused direct previewed] at begins
    by_contra cannot
    rw [if_neg cannot] at begins
    split at begins
    · cases begins
    · split at begins <;> cases begins

/-! ## The view decision (R162) -/

/-- What an answer makes of the decision, where the picture lane's own view is `view`. -/
def Answer.decision (view : View) : Answer → View × Bool
  | .slate k => (.slate k, false)
  | .goOn => (view, false)
  | .preview => (view, true)

section Decision

variable {s : State} {e : ChannelEntry}

theorem State.viewDecision_unsold
    (unsold : (s.lane e.picture).response = .hold ∨ (s.lane e.picture).response = .block
      ∨ s.packages.getLsbD e.package = false) :
    s.viewDecision e = (.slate .notSubscribed, false) := if_pos unsold

variable (sold : ¬ ((s.lane e.picture).response = .hold ∨ (s.lane e.picture).response = .block
  ∨ s.packages.getLsbD e.package = false))
include sold

theorem State.viewDecision_locked (locked : s.verdict (s.classOf e) = .locked) :
    s.viewDecision e = (.slate .locked, false) := by
  refine (if_neg sold).trans ?_
  rw [locked]

theorem State.viewDecision_pin (pin : s.verdict (s.classOf e) = .pin) :
    s.viewDecision e = (.slate .pin, false) := by
  refine (if_neg sold).trans ?_
  rw [pin]

variable (allowed : s.verdict (s.classOf e) = .allowed)
include allowed

/-- A pay channel without a current programme is UNAVAILABLE. -/
theorem State.viewDecision_unavailable (pay : e.pay = true) (absent : s.current e.number = none) :
    s.viewDecision e = (.slate .unavailable, false) := by
  refine (if_neg sold).trans ?_
  rw [allowed]
  exact if_pos ⟨pay, absent⟩

theorem State.viewDecision_answer (present : ¬ (e.pay = true ∧ s.current e.number = none)) :
    s.viewDecision e = (s.saleAnswer e).decision (s.lane e.picture).view := by
  refine (if_neg sold).trans ?_
  rw [allowed]
  refine (if_neg present).trans ?_
  cases s.saleAnswer e <;> rfl

theorem State.viewDecision_absent (free : e.pay = false) (absent : s.current e.number = none) :
    s.viewDecision e = ((s.lane e.picture).view, false) := by
  rw [State.viewDecision_answer sold allowed (by simp [free]), State.saleAnswer, absent]
  rfl

variable {p : Programme} (current : s.current e.number = some p)
include current

theorem State.viewDecision_free (free : s.priceOf p = 0) : s.viewDecision e = ((s.lane e.picture).view, false) := by
  rw [State.viewDecision_answer sold allowed (by simp [current]), State.saleAnswer, current]
  dsimp only
  rw [if_pos free]
  rfl

theorem State.viewDecision_priced (priced : s.priceOf p ≠ 0) :
    s.viewDecision e = (s.answer e.number p).decision (s.lane e.picture).view := by
  rw [State.viewDecision_answer sold allowed (by simp [current]), State.saleAnswer, current]
  dsimp only
  rw [if_neg priced]

end Decision

/-- The last rows of R162, by the watch and the key status of the picture lane. -/
theorem Lane.view_rows (l : Lane) : (l.watch = .lost → l.view = .slate .noSignal)
    ∧ (l.watch ≠ .lost → l.keyStatus = .keyless → l.view = .slate .noKey)
    ∧ (l.watch ≠ .lost → l.keyStatus ≠ .keyless → l.view = .show) :=
  ⟨fun lost => if_pos lost, fun seen keyless => (if_neg seen).trans (if_pos keyless),
    fun seen keyed => (if_neg seen).trans (if_neg keyed)⟩

theorem Answer.decision_begins (view : View) (a : Answer) : (a.decision view).2 = true ↔ a = .preview := by
  cases a <;> simp [Answer.decision]

/-- When taking the decision begins a preview: on a channel that is subscribed and allowed, for a priced programme that
the purchase unit answers by a preview (R102). -/
theorem State.viewDecision_begins_iff (s : State) (e : ChannelEntry) : (s.viewDecision e).2 = true ↔
    ¬ ((s.lane e.picture).response = .hold ∨ (s.lane e.picture).response = .block
        ∨ s.packages.getLsbD e.package = false)
      ∧ s.verdict (s.classOf e) = .allowed
      ∧ ∃ p, s.current e.number = some p ∧ s.priceOf p ≠ 0 ∧ s.answer e.number p = .preview := by
  refine ⟨fun begins => ?_, fun ⟨sold, allowed, p, current, priced, answer⟩ => ?_⟩
  · by_cases unsold : (s.lane e.picture).response = .hold ∨ (s.lane e.picture).response = .block
        ∨ s.packages.getLsbD e.package = false
    · simp [State.viewDecision_unsold unsold] at begins
    refine ⟨unsold, ?_⟩
    cases verdict : s.verdict (s.classOf e) with
    | locked => simp [State.viewDecision_locked unsold verdict] at begins
    | pin => simp [State.viewDecision_pin unsold verdict] at begins
    | allowed =>
      obtain ⟨p, current, -⟩ := s.viewDecision_preview e begins
      refine ⟨rfl, p, current, ?_⟩
      by_cases free : s.priceOf p = 0
      · simp [State.viewDecision_free unsold verdict current free] at begins
      · rw [State.viewDecision_priced unsold verdict current free, Answer.decision_begins] at begins
        exact ⟨free, begins⟩
  · rw [State.viewDecision_priced sold allowed current priced, Answer.decision_begins]
    exact answer

/-- Settles O23: taking the decision afresh is `State.finish_redecided`; the rows follow the lock verdict and the
purchase unit's answer. -/
theorem view_decision_rows : Obligations.view_decision_rows := by
  intro s
  refine ⟨s.finish_redecided, fun e => ?_⟩
  intro l cls unsold restricted locked pin is goesOn
  have row {v : View} {b : Bool} (h : s.viewDecision e = (v, b)) : is v := congrArg Prod.fst h
  have shows {b : Bool} (h : s.viewDecision e = (l.view, b)) : goesOn := by
    have rows := l.view_rows
    have view : (s.viewDecision e).1 = l.view := congrArg Prod.fst h
    rwa [← view] at rows
  have allowedRow : ¬ locked → ¬ pin → s.verdict (s.classOf e) = .allowed := State.verdict_allowed
  refine ⟨fun h => row (State.viewDecision_unsold h),
    fun sold h => row (State.viewDecision_locked sold (State.verdict_locked h)),
    fun sold opens h => row (State.viewDecision_pin sold (State.verdict_pin opens h.1 h.2)),
    fun sold opens unasked => ?_, ?_⟩
  · have allowed := allowedRow opens unasked
    refine ⟨fun pay absent => row (State.viewDecision_unavailable sold allowed pay absent),
      fun free absent => shows (State.viewDecision_absent sold allowed free absent), fun p current =>
      ⟨fun free => shows (State.viewDecision_free sold allowed current free), fun priced => ?_⟩⟩
    intro rental refused direct preview free
    have answers {a : Answer} (h : s.answer e.number p = a) : s.viewDecision e = a.decision l.view :=
      (State.viewDecision_priced sold allowed current priced).trans (congrArg _ h)
    have unrefused (h : ∀ r, ¬ refused r) : s.refusalOf e.number p = none :=
      State.refusalOf_eq_none_iff.2 fun r there bound => h r ⟨there, bound⟩
    refine ⟨fun h => shows (answers (State.answer_rental h)),
      fun noRental r h => row (answers (State.answer_refused noRental ((State.refusalOf_eq_some_iff r).2 h))),
      fun noRental h => ?_, fun noRental h => ?_, fun noRental h noDirect unseen => ?_⟩
    · exact fun buys => row (answers (State.answer_direct noRental (unrefused h) buys))
    · exact fun noDirect seen => shows (answers (State.answer_previewed noRental (unrefused h) noDirect seen))
    · have clear := unrefused h
      exact ⟨fun off => row (answers (State.answer_unbilled noRental clear noDirect unseen off)),
        fun _ can => shows (answers (State.answer_preview noRental clear noDirect unseen can)),
        fun on cannot busy => row (answers (State.answer_no_meter noRental clear noDirect unseen on cannot busy)),
        fun on cannot room => row (answers (State.answer_offer noRental clear noDirect unseen on cannot room))⟩
  · have allowed : s.verdict (s.classOf e) = .allowed ↔ ¬ locked ∧ ¬ pin := by
      refine ⟨fun verdict => ?_, fun h => allowedRow h.1 h.2⟩
      have opens : ¬ locked := fun h => by cases (State.verdict_locked h).symm.trans verdict
      exact ⟨opens, fun h => by cases (State.verdict_pin opens h.1 h.2).symm.trans verdict⟩
    rw [s.viewDecision_begins_iff, allowed, and_assoc]
    simp only [State.answer_eq_preview_iff, State.refusalOf_eq_none_iff, not_exists, not_and, ne_eq]
    rfl

end Sys2Proof.Machine
end

section
/-!
PROOF. The timeouts of a local second (O33) and the events of its meters (O34).
-/

namespace Sys2Proof.Machine

/-- An event that is due and whose cause still stands acts. -/
theorem exec_event {s : State} {e : TickEvent} (powered : s.powered = true) (listed : e ∈ s.due) :
    exec e.command s = .next (State.perform { s with due := s.due.erase e } e) :=
  (exec_command e s).trans (State.takeEvent_due e s powered listed)

/-! ## Timeouts (R68, R111, R150, R167) -/

/-- The end of a cut allowance whose slate is still the decision: that slate starts (R167). -/
theorem State.endCut_composer {s : State} {e : ChannelEntry} {k : Slate} (tuned : s.tunedEntry = some e)
    (held : s.composer.decision = some (.slate k)) (stays : (s.viewDecision e).1 = .slate k) :
    s.endCut.composer = { s.composer with output := .slate k none 0 } := by
  have begun : s.beginSlate = { s with composer := { s.composer with output := .slate k none 0 } } := by
    unfold State.beginSlate
    rw [held]
  have same : s.beginSlate.viewDecision e = s.viewDecision e := by
    rw [begun]
    exact State.viewDecision_congr rfl rfl rfl
  have entry : s.beginSlate.tunedEntry = some e := by
    rw [begun]
    exact tuned
  refine (State.finish_settled s.beginSlate e entry ?_ ?_).trans (congrArg State.composer begun)
  · rw [same, stays, begun]
    exact held
  · rw [begun]
    simp

/-- Settles O33: each event's cause stands, and it acts as its rule says. -/
theorem timeouts_end_what_waits : Obligations.timeouts_end_what_waits := by
  intro s powered after
  refine ⟨fun k listed waits ran => ?_, fun k listed collecting last ran => ?_,
    fun e start k listed cut ran tuned held stays => ?_, fun r listed refusal reached => ?_⟩
  · have due : s.pinTimeoutDue = true := by simp [State.pinTimeoutDue, waits, ran]
    exact (exec_event powered listed).trans (congrArg _ (if_pos due))
  · have due : s.channelTimeoutDue = true := by simp [State.channelTimeoutDue, collecting, last, ran]
    refine ⟨_, (exec_event powered listed).trans (congrArg _ (if_pos due)), ?_⟩
    unfold State.completeEntry
    rw [decimalValue_eq]
    exact State.selectChannel_selects _ _
  · have due : s.cutDue = true := s.cutDue_iff.2 ⟨start, cut, ran⟩
    refine ⟨_, (exec_event powered listed).trans (congrArg _ (if_pos due)),
      State.endCut_composer (s := after .cutAllowanceEnd) tuned held stays, ?_⟩
    simp [State.endCut]
  · have due : s.refusalDue = true := by simp [State.refusalDue, refusal, reached]
    exact ⟨_, (exec_event powered listed).trans (congrArg _ (if_pos due)), State.finish_redecided _⟩

/-! ## The marking of an ended preview (R109) -/

/-- Marking a record changes the store and the marking list alone: what they become is `State.markPreviewed_asked`. -/
theorem State.markPreviewed_only (n : Nat) (s : State) :
    { s.markPreviewed n with
      store := s.store
      buying := { (s.markPreviewed n).buying with marking := s.buying.marking } } = s := by
  unfold State.markPreviewed
  split
  · split
    · rfl
    · rw [State.push_advance]
  · rfl

theorem State.markPreviewed_eq {s : State} {n : Nat} {store : FolioStore} {marking : List Nat}
    (h : (s.markPreviewed n).store = store ∧ (s.markPreviewed n).buying.marking = marking) :
    s.markPreviewed n = { s with store := store, buying := { s.buying with marking := marking } } := by
  obtain ⟨rfl, rfl⟩ := h
  exact congrArg (fun t : State =>
    { t with store := (s.markPreviewed n).store
             buying := { t.buying with marking := (s.markPreviewed n).buying.marking } }) (s.markPreviewed_only n)

/-! ## The events of the meters (R72, R74, R89 to R91, R106, R118, R119) -/

/-- The preview that a meter's end ends: the first in the list that runs on it. -/
theorem find?_running {i : Nat} {p : Preview} {as bs : List Preview}
    (others : ∀ q ∈ as, ¬ (q.meter = i ∧ q.state = .running)) (meter : p.meter = i) (running : p.state = .running) :
    (as ++ p :: bs).find? (fun q => q.meter == i && q.state == .running) = some p := by
  rw [List.find?_append, List.find?_eq_none.2 (by simpa using others)]
  simp [meter, running]

section Terminal

variable {s : State} {i : Nat}

theorem State.terminal_unlock (use : (s.meter i).use = .unlock) :
    s.terminal i = State.finish (s.setMeter i Meter.free) := by
  unfold State.terminal
  rw [use]

theorem State.terminal_lockout (use : (s.meter i).use = .lockout) :
    s.terminal i = State.finish { s.setMeter i Meter.free with lock := { s.lock with wrongCount := 0 } } := by
  unfold State.terminal
  rw [use]
  rfl

theorem State.terminal_rental (use : (s.meter i).use = .rental) :
    s.terminal i = State.finish ((s.setMeter i Meter.free).rentalTerminal i) := by
  unfold State.terminal
  rw [use]

/-- A preview whose meter has run out leaves the preview list, its record to be marked (R106). -/
theorem State.previewTerminal_found {p : Preview}
    (found : s.buying.previews.find? (fun q => q.meter == i && q.state == .running) = some p) :
    s.previewTerminal i = State.raise .previewEnded ((s.dropPreview p.programme).markPreviewed p.record) := by
  unfold State.previewTerminal
  rw [found]

theorem State.terminal_preview {p : Preview} (use : (s.meter i).use = .preview)
    (found : s.buying.previews.find? (fun q => q.meter == i && q.state == .running) = some p) :
    s.terminal i = State.finish
      (State.raise .previewEnded (((s.setMeter i Meter.free).dropPreview p.programme).markPreviewed p.record)) := by
  unfold State.terminal
  rw [use]
  exact congrArg State.finish (State.previewTerminal_found (s := s.setMeter i Meter.free) found)

end Terminal

/-- A meter goes on with the period it has buffered, and its rental's end time moves by it (R91, R118). -/
theorem State.extendMeter_buffered {s : State} {i b : Nat} (buffered : (s.meter i).buffered = some b) :
    s.extendMeter i = State.finish
      { s with
        meters := s.meters.set i ((s.meter i).extendedBy b)
        buying := { s.buying with rentals := s.buying.rentals.map fun r =>
          if r.meter = i then { r with endTime := heldTime (r.endTime + b) } else r } } := by
  unfold State.extendMeter
  rw [buffered]
  rfl

/-- Settles O34: each event acts on the meter, then its owner acts by the use that has ended. -/
theorem meter_events_reach_their_owners : Obligations.meter_events_reach_their_owners := by
  intro s i powered m after freed moved ends
  have terminal (h : ends) : exec (.terminal i) s = .next (State.terminal i (after (.terminal i))) := by
    obtain ⟨listed, period, unbuffered⟩ := h
    have due : m.event i = some (.terminal i) := (m.event_iff i _).2 (.inl ⟨period, unbuffered, rfl⟩)
    exact (exec_event powered listed).trans (congrArg _ (if_pos due))
  refine ⟨fun listed runs reached => ?_, fun b listed period buffered => ?_, fun h use => ?_, fun h use => ?_,
    fun h use => ?_, fun p as bs h use split others meter running => ?_⟩
  · have due : m.event i = some (.compare i) := (m.event_iff i _).2 (.inr (.inr ⟨runs, reached, rfl⟩))
    exact (exec_event powered listed).trans (congrArg _ (if_pos due))
  · have due : m.event i = some (.extended i) := (m.event_iff i _).2 (.inr (.inl ⟨period, by simp [buffered], rfl⟩))
    exact ⟨_, (exec_event powered listed).trans (congrArg _ (if_pos due)),
      State.redecided_of_finish (State.extendMeter_buffered (s := after (.extended i)) buffered)⟩
  · exact ⟨_, terminal h, State.redecided_of_finish (State.terminal_unlock (s := after (.terminal i)) use)⟩
  · exact ⟨_, terminal h, State.redecided_of_finish (State.terminal_lockout (s := after (.terminal i)) use)⟩
  · exact ⟨_, terminal h, State.redecided_of_finish (State.terminal_rental (s := after (.terminal i)) use)⟩
  · intro remaining without marking
    have found : s.buying.previews.find? (fun q => q.meter == i && q.state == .running) = some p :=
      split ▸ find?_running others meter running
    have ended : State.terminal i (after (.terminal i))
        = State.finish (State.raise .previewEnded (without.markPreviewed p.record)) :=
      State.terminal_preview (s := after (.terminal i)) use found
    have marked {u : State} (h : without.markPreviewed p.record = u) :
        Redecided (State.raise .previewEnded u) (State.terminal i (after (.terminal i))) :=
      State.redecided_of_finish (h ▸ ended)
    have asked := State.markPreviewed_asked p.record without
    exact ⟨_, terminal h, fun shut => marked (State.markPreviewed_eq (asked.refused shut)),
      fun fault closing scan full => marked (State.markPreviewed_eq (asked.listed fault closing scan full)),
      fun fault closing scan room => marked (State.markPreviewed_eq (asked.queued fault closing scan room))⟩

end Sys2Proof.Machine
end

section
/-!
PROOF. The keys of PIN entry (O38), CANCEL and LOCK (O39).
-/

namespace Sys2Proof.Machine

/-! ## A key that acts (R145 to R148) -/

/-- s as a key's action finds it: both last key seconds are the current count (R145 step 1), and the channel entry holds
these digits. -/
abbrev State.struck (s : State) (digits : List Nat) : State :=
  { s with
    keypad := { digits := digits, lastKeySecond := some s.second, lastKey := s.keypad.lastKey,
                errors := s.keypad.errors, firstByte := none, restarted := false }
    lock := { s.lock with entry := s.lock.entry.touched s.second } }

section Key

variable {s : State} {ds : List Nat} (cmd : Instr) (code : Nat)
variable (awake : Awake s) (frame : exec cmd s = s.takeFrame code false)
include awake frame

/-- A key that is not held acts on the state struck, and is then the last key (R145). -/
theorem exec_key {t : State} (acts : (s.struck s.keypad.digits).keyAction code = t)
    (pad : t.keypad = (s.struck ds).keypad) : exec cmd s = .next (t.withKeypad (s.keyed code ds).keypad) := by
  have touched : s.touchKeys = s.struck s.keypad.digits := by simp [State.touchKeys, awake.2.2]
  rw [frame, State.takeFrame_awake code false s awake, State.keyFrame, if_pos (by rfl), touched, acts]
  dsimp only
  rw [pad]
  rfl

/-- A key whose action ends by taking the view decision afresh. -/
theorem exec_key_redecides {t : State} (acts : (s.struck s.keypad.digits).keyAction code = t.finish)
    (pad : t.keypad = (s.struck ds).keypad) :
    ∃ u, exec cmd s = .next u ∧ Redecided (t.withKeypad (s.keyed code ds).keypad) u :=
  ⟨_, exec_key cmd code awake frame acts (by simpa using pad), t.finish_redecided.withKeypad _⟩

end Key

theorem PinEntry.active_touched (entry : PinEntry) (now : Word32) : (entry.touched now).active = entry.active := by
  cases entry <;> rfl

theorem PinEntry.active_iff (entry : PinEntry) : entry.active = true ↔ entry ≠ .idle := by
  cases entry <;> simp [PinEntry.active]

/-! ## What a digit does to PIN entry (R67 to R71) -/

section Digit

variable {s : State} {d : Nat}

theorem State.lockoutRunning_eq_false_iff : s.lockoutRunning = false ↔ (s.meter 0).use ≠ .lockout := by
  simp [State.lockoutRunning]

/-- A digit under the PIN slate begins an UNLOCK collection, if there is a PIN to type and no lockout (R66). -/
theorem State.pinDigit_idle {n : Nat} (entry : s.lock.entry = .idle) (tuned : s.composer.tuned = some n)
    (slate : s.composer.decision = some (.slate .pin)) : s.pinDigit d =
      if s.lock.pin = none ∨ (s.meter 0).use = .lockout then s
      else { s with lock := { s.lock with entry := .unlock n [d] s.second } } := by
  unfold State.pinDigit
  rw [entry, tuned]
  dsimp only
  by_cases noPin : s.lock.pin = none ∨ (s.meter 0).use = .lockout
  · rw [if_pos noPin, if_neg]
    rw [State.lockoutRunning_eq_false_iff]
    tauto
  · rw [if_neg noPin, if_pos]
    rw [State.lockoutRunning_eq_false_iff]
    tauto

theorem State.pinDigit_rate {j : Word32} (entry : s.lock.entry = .rateDigit j) : s.pinDigit d = s.rateDigit d := by
  unfold State.pinDigit
  rw [entry]

/-- A requested ceiling above G asks for the PIN, if there is one to type and no lockout (R67). -/
theorem State.rateDigit_above (above : s.lock.g < d) : s.rateDigit d =
    if s.lock.pin = none ∨ (s.meter 0).use = .lockout then s.pinIdle
    else { s with lock := { s.lock with entry := .raise d [] s.second } } := by
  unfold State.rateDigit
  rw [if_neg (Nat.not_le.2 above)]
  by_cases lockout : (s.meter 0).use = .lockout
  · rw [if_pos (State.lockoutRunning_iff.2 lockout), if_pos (.inr lockout)]
  · rw [if_neg (mt State.lockoutRunning_iff.1 lockout)]
    simp [lockout]

variable {ds : List Nat} {j : Word32}

section Unlock

variable {n : Nat} (entry : s.lock.entry = .unlock n ds j)
include entry

theorem State.pinDigit_unlock_joins (few : ds.length < 3) :
    s.pinDigit d = { s with lock := { s.lock with entry := .unlock n (ds ++ [d]) s.second } } := by
  unfold State.pinDigit
  rw [entry]
  exact if_pos few

theorem State.pinDigit_unlock_fourth (full : 3 ≤ ds.length) :
    s.pinDigit d = if s.pinIs (ds ++ [d]) then s.unlockMatched else s.pinMismatched := by
  unfold State.pinDigit
  rw [entry]
  exact if_neg (Nat.not_lt.2 full)

end Unlock

section Raise

variable {target : Nat} (entry : s.lock.entry = .raise target ds j)
include entry

theorem State.pinDigit_raise_joins (few : ds.length < 3) :
    s.pinDigit d = { s with lock := { s.lock with entry := .raise target (ds ++ [d]) s.second } } := by
  unfold State.pinDigit
  rw [entry]
  exact if_pos few

theorem State.pinDigit_raise_fourth (full : 3 ≤ ds.length) :
    s.pinDigit d = if s.pinIs (ds ++ [d]) then s.raiseMatched target else s.pinMismatched := by
  unfold State.pinDigit
  rw [entry]
  exact if_neg (Nat.not_lt.2 full)

end Raise

theorem State.pinIs_iff : s.pinIs ds = true ↔ s.lock.pin.map pinList = some ds := beq_iff_eq

/-- A first or second wrong PIN is counted (R71). -/
theorem State.pinMismatched_counts (few : s.lock.wrongCount < 2) : s.pinMismatched =
    { s with lock := { s.lock with entry := .idle, wrongCount := s.lock.wrongCount + 1 } } :=
  if_neg (by dsimp only; omega)

/-- The third wrong PIN starts the lockout (R71, R72). -/
theorem State.pinMismatched_locks (many : 2 ≤ s.lock.wrongCount) : s.pinMismatched =
    State.finish (State.raise .lockout
      { s with lock := { s.lock with entry := .idle, wrongCount := s.lock.wrongCount + 1 }
               meters := s.meters.set 0 (Meter.window .lockout 900) }) :=
  if_pos (by dsimp only; omega)

end Digit

/-- The action of a digit key (R148). -/
theorem State.keyAction_digit (d : Fin 10) (s : State) : s.keyAction d.val = s.digitKey d.val := by
  fin_cases d <;> rfl

/-- A digit goes to PIN entry while that is active or the PIN slate is the decision, and ends the channel entry (R148,
R152). -/
theorem State.struck_pinDigit {s : State} (d : Fin 10)
    (toPin : s.lock.entry ≠ .idle ∨ s.composer.decision = some (.slate .pin)) :
    (s.struck s.keypad.digits).keyAction d.val = (s.struck []).pinDigit d.val := by
  rw [State.keyAction_digit]
  refine if_pos ?_
  rw [PinEntry.active_touched, Bool.or_eq_true, PinEntry.active_iff, beq_iff_eq]
  exact toPin

/-- Settles O38: RATE and each digit by what PIN entry is when the key acts on it. -/
theorem rate_and_pin_digits : Obligations.rate_and_pin_digits := by
  intro s d awake k noPin four window runs redecides
  have touched {x : PinEntry} (entry : s.lock.entry = x) : (s.struck []).lock.entry = x.touched s.second :=
    congrArg (PinEntry.touched s.second) entry
  have leaves {u : State} (toPin : s.lock.entry ≠ .idle ∨ s.composer.decision = some (.slate .pin))
      (acts : (s.struck []).pinDigit d.val = u) (pad : u.keypad = (s.struck []).keypad) :
      runs (u.withKeypad (s.keyed d.val []).keypad) :=
    exec_key _ d.val awake rfl ((State.struck_pinDigit d toPin).trans acts) pad
  have finishes {u : State} (toPin : s.lock.entry ≠ .idle ∨ s.composer.decision = some (.slate .pin))
      (acts : (s.struck []).pinDigit d.val = u.finish) (pad : u.keypad = (s.struck []).keypad) :
      redecides (u.withKeypad (s.keyed d.val []).keypad) :=
    exec_key_redecides _ d.val awake rfl ((State.struck_pinDigit d toPin).trans acts) pad
  refine ⟨exec_key (ds := []) _ 16 awake rfl rfl rfl, fun j entry => ?_, fun entry slate n tuned => ?_,
    fun n ds j entry => ?_, fun target ds j entry => ?_, fun ds j entry full wrong => ?_⟩
  · have toPin : s.lock.entry ≠ .idle := by simp [entry]
    have acts := State.pinDigit_rate (d := d.val) (touched entry)
    refine ⟨fun below => finishes (.inl toPin) (acts.trans (if_pos below)) rfl, fun above unset => ?_,
      fun above set => ?_⟩
    · exact leaves (.inl toPin) (acts.trans ((State.rateDigit_above (s := s.struck []) above).trans (if_pos unset))) rfl
    · exact leaves (.inl toPin) (acts.trans ((State.rateDigit_above (s := s.struck []) above).trans (if_neg set))) rfl
  · have acts := State.pinDigit_idle (d := d.val) (touched entry) tuned slate
    exact ⟨fun set => leaves (.inr slate) (acts.trans (if_neg set)) rfl,
      fun unset => leaves (u := s.struck []) (.inr slate) (acts.trans (if_pos unset)) rfl⟩
  · have toPin : s.lock.entry ≠ .idle := by simp [entry]
    refine ⟨fun few => leaves (.inl toPin) (State.pinDigit_unlock_joins (touched entry) few) rfl,
      fun full matched => ?_⟩
    exact finishes (.inl toPin)
      ((State.pinDigit_unlock_fourth (touched entry) full).trans (if_pos (State.pinIs_iff.2 matched))) rfl
  · have toPin : s.lock.entry ≠ .idle := by simp [entry]
    refine ⟨fun few => leaves (.inl toPin) (State.pinDigit_raise_joins (touched entry) few) rfl,
      fun full matched => ?_⟩
    exact finishes (.inl toPin)
      ((State.pinDigit_raise_fourth (touched entry) full).trans (if_pos (State.pinIs_iff.2 matched))) rfl
  · have toPin : s.lock.entry ≠ .idle := by
      rcases entry with ⟨n, entry⟩ | ⟨target, entry⟩ <;> simp [entry]
    have acts : (s.struck []).pinDigit d.val = (s.struck []).pinMismatched := by
      rcases entry with ⟨n, entry⟩ | ⟨target, entry⟩
      · exact (State.pinDigit_unlock_fourth (touched entry) full).trans (if_neg (mt State.pinIs_iff.1 wrong))
      · exact (State.pinDigit_raise_fourth (touched entry) full).trans (if_neg (mt State.pinIs_iff.1 wrong))
    exact ⟨fun few => leaves (.inl toPin) (acts.trans (State.pinMismatched_counts few)) rfl,
      fun many => finishes (.inl toPin) (acts.trans (State.pinMismatched_locks many)) rfl⟩

/-! ## CANCEL (R69, R107, R155) and LOCK (R73) -/

section Cancel

variable {s : State}

/-- RELEASE frees a meter bound to the programme or held for it (R86). -/
theorem State.releaseMeter_eq (i programme : Nat) : s.releaseMeter i programme =
    { s with meters := if (s.meter i).programme = some programme ∨ (s.meter i).hold = some programme
                       then s.meters.set i Meter.free else s.meters } := by
  by_cases bound : (s.meter i).programme = some programme ∨ (s.meter i).hold = some programme
  · rw [if_pos bound]
    exact if_pos bound
  · rw [if_neg bound]
    exact if_neg bound

theorem State.markPreviewed_withKeypad (n : Nat) (k : Keypad) :
    (s.withKeypad k).markPreviewed n = (s.markPreviewed n).withKeypad k := by
  unfold State.markPreviewed
  split
  · split
    · rfl
    · rw [State.push_advance, State.push_advance]
  · rfl

/-- CANCEL ends no preview unless one runs that is shown (R107). -/
theorem State.cancelPreview_none
    (still : ∀ p q, s.tunedCurrent = some p → s.runningPreview p.id = some q → s.composer.decision ≠ some .show) :
    s.cancelPreview = s := by
  unfold State.cancelPreview
  cases current : s.tunedCurrent with
  | none => rfl
  | some p =>
    cases running : s.runningPreview p.id with
    | none => simp [running]
    | some q => simp [running, still p q current running]

theorem State.cancelPreview_ends {p : Programme} {q : Preview} (current : s.tunedCurrent = some p)
    (running : s.runningPreview p.id = some q) (shows : s.composer.decision = some .show) :
    s.cancelPreview = State.finish (s.endPreview q) := by
  simp [State.cancelPreview, current, running, shows]

theorem State.programme_of_running {id : Nat} {q : Preview} (running : s.runningPreview id = some q) :
    q.programme = id := by
  have found := List.find?_some running
  rw [Bool.and_eq_true, beq_iff_eq] at found
  exact found.1

variable (idle : s.lock.entry = .idle)
include idle

theorem State.cancelKey_entry (collecting : s.keypad.digits ≠ []) : s.cancelKey = s.endEntry := by
  simp [State.cancelKey, idle, PinEntry.active, collecting]

theorem State.cancelKey_preview (empty : s.keypad.digits = []) : s.cancelKey = s.cancelPreview := by
  simp [State.cancelKey, idle, PinEntry.active, empty]

end Cancel

/-- Settles O39: CANCEL by the first entry that waits, else by the preview shown; LOCK by the window it closes. -/
theorem cancel_and_lock_keys : Obligations.cancel_and_lock_keys := by
  intro s awake k
  have idleStill (idle : s.lock.entry = .idle) : (s.struck s.keypad.digits).lock.entry = .idle :=
    congrArg (PinEntry.touched s.second) idle
  refine ⟨fun active => ?_, fun idle collecting => ?_, fun idle empty => ?_, ?_⟩
  · refine exec_key _ 14 awake rfl (if_pos ?_) rfl
    rw [PinEntry.active_touched, PinEntry.active_iff]
    exact active
  · exact exec_key (ds := []) _ 14 awake rfl (State.cancelKey_entry (idleStill idle) collecting) rfl
  · have toPreview := State.cancelKey_preview (idleStill idle) empty
    have pad : (s.struck s.keypad.digits).keypad = (s.struck []).keypad := by rw [empty]
    have nothing (still : ∀ p q, s.tunedCurrent = some p → s.runningPreview p.id = some q →
        s.composer.decision ≠ some .show) : exec (.cancel false) s = .next (k []) :=
      exec_key _ 14 awake rfl (toPreview.trans (State.cancelPreview_none still)) pad
    refine ⟨fun still => nothing fun p q current _ => still.resolve_right (by simp [current]),
      fun p shows current => ⟨fun stopped => nothing fun p' q current' running => ?_, fun q running => ?_⟩⟩
    · cases current.symm.trans current'
      cases stopped.symm.trans running
    · intro m others ended
      have programme := State.programme_of_running running
      have done := exec_key_redecides (ds := []) (.cancel false) 14 awake rfl
        (toPreview.trans (State.cancelPreview_ends current running shows)) (by simpa using pad)
      have eq : ((s.struck s.keypad.digits).endPreview q).withKeypad (k []).keypad = ended.markPreviewed q.record := by
        unfold State.endPreview
        rw [← State.markPreviewed_withKeypad, State.releaseMeter_eq, programme]
        rfl
      rwa [eq] at done
  · exact exec_key_redecides _ 15 awake rfl (congrArg State.finish (State.closeWindow_eq _)) rfl

end Sys2Proof.Machine
end

section
/-!
PROOF. CLOSE FOLIO (O49).
-/

namespace Sys2Proof.Machine

/-! ## The checks of CLOSE FOLIO (R139) -/

section Check

variable {s : State} {folio force : Nat}

theorem StoreOp.holdsClose_iff (op : StoreOp) : op.holdsClose = true ↔
    (∃ r, op = .append r) ∨ (∃ n v, op = .advance n v) ∨ ∃ n m, op = .writeExtension n m := by
  cases op <;> simp [StoreOp.holdsClose]

/-- What holds an unforced close back: a record that is not SETTLED, or an operation that would write one. -/
theorem State.closeHeldBack_iff (s : State) : s.closeHeldBack = true ↔
    (∃ x ∈ s.store.records, x.1.state ≠ .settled) ∨ ∃ q ∈ s.store.queue,
      (∃ r, q.op = .append r) ∨ (∃ n v, q.op = .advance n v) ∨ ∃ n m, q.op = .writeExtension n m := by
  simp only [State.closeHeldBack, Bool.or_eq_true, List.any_eq_true, bne_iff_ne, StoreOp.holdsClose_iff]

theorem State.closeCheck_range (out : ¬ (1 ≤ folio ∧ folio ≤ 65535 ∧ force ≤ 1)) :
    s.closeCheck folio force = some .range :=
  if_pos (by rw [boolOf_eq_none_iff]; omega)

variable (valid : 1 ≤ folio ∧ folio ≤ 65535 ∧ force ≤ 1)
include valid

theorem State.closeCheck_stale (other : folio ≠ s.store.folio) : s.closeCheck folio force = some .stale :=
  (if_neg (by rw [boolOf_eq_none_iff]; omega)).trans (if_pos other)

variable (current : folio = s.store.folio)
include current

/-- The checks that are left for the current folio. -/
theorem State.closeCheck_current : s.closeCheck folio force =
    if s.store.closingTest then some .busy
    else if force = 0 ∧ s.closeHeldBack = true then some .state else none :=
  (if_neg (by rw [boolOf_eq_none_iff]; omega)).trans (if_neg (not_not.2 current))

end Check

/-! ## The effect of CLOSE FOLIO (R77, R95, R122, R140) -/

/-- s as a close is taken, before its own operations are queued: `closeFolio` starts them and finishes. -/
def State.closeTaken (s : State) : State :=
  { s with
    buying := s.buying.closed
    lock := s.lock.closed
    meters := List.replicate 8 Meter.free
    store := s.store.closeTaken }

section Effect

variable {s : State}

/-- An operation in flight is left to complete, and nothing else is queued. -/
theorem State.startClose_closeTaken_waits {q : QueuedOp} {rest : List QueuedOp} (queue : s.store.queue = q :: rest) :
    s.closeTaken.startClose = s.closeTaken ∧ s.closeTaken.store.queue = [q] := by
  have taken : s.closeTaken.store.queue = [q] := congrArg (List.take 1) queue
  exact ⟨if_neg (by simp [taken]), taken⟩

/-- With nothing in flight the close's own operations are queued at once. -/
theorem State.startClose_closeTaken_begins (empty : s.store.queue = []) :
    CloseBegun s.store s.standing s.closeTaken.startClose.store := by
  obtain ⟨-, -, page, unmarked, marked⟩ := State.startClose_facts s.closeTaken (congrArg (List.take 1) empty)
  exact ⟨page, unmarked, marked⟩

/-- Of the store, the start of the close's operations touches the queue and the sectors alone. -/
theorem State.startClose_same (s : State) :
    { s.startClose.store with queue := s.store.queue, sectors := s.store.sectors } = s.store := by
  unfold State.startClose
  split
  · exact (State.pushAll_same _ s).2
  · rfl

end Effect

/-- Settles O49: the checks in R139's order, then what is ended at once and what the store begins. -/
theorem close_folio_checks_and_effect : Obligations.close_folio_checks_and_effect := by
  intro s t folio force meant close valid busy unsettled
  obtain ⟨awake, here, target⟩ := meant
  have refused {r : Reason} (h : s.closeCheck folio force = some r) : close = .next (s.refuse .closeFolio r) :=
    State.act_refused awake here target h
  have closing := s.store.closingTest_iff
  have heldBack : s.closeHeldBack = true ↔ unsettled := s.closeHeldBack_iff
  refine ⟨fun out => refused (State.closeCheck_range out), fun h other => refused (State.closeCheck_stale h other),
    fun h current shut => ?_, fun h current free unforced waits => ?_, fun h current free passes => ?_⟩
  · exact refused ((State.closeCheck_current h current).trans (if_pos (closing.2 shut)))
  · exact refused ((State.closeCheck_current h current).trans ((if_neg (mt closing.1 free)).trans
      (if_pos ⟨unforced, heldBack.2 waits⟩)))
  · have check : s.closeCheck folio force = none := by
      refine (State.closeCheck_current h current).trans ((if_neg (mt closing.1 free)).trans (if_neg ?_))
      rintro ⟨unforced, waits⟩
      rcases passes with forced | settled
      · omega
      · exact settled (heldBack.1 waits)
    obtain ⟨-, -, -, lanes, -, -, notices, lock, meters, buying, keypad, composer, management, reply, -, -⟩ :=
      s.closeTaken.startClose_keeps
    have store := State.startClose_same s.closeTaken
    have number := congrArg FolioStore.folio store
    have page := congrArg FolioStore.page store
    have fault := congrArg FolioStore.fault store
    refine ⟨s.closeTaken.startClose, _, State.act_taken awake here target check, State.finish_redecided _, buying, lock,
      meters, reply, lanes, notices, keypad, composer, management, congrArg FolioStore.closing store,
      congrArg FolioStore.scanList store, number, page, fault, fun q rest queue => ?_,
      State.startClose_closeTaken_begins⟩
    obtain ⟨same, flight⟩ := State.startClose_closeTaken_waits queue
    rw [same]
    exact ⟨flight, rfl⟩

end Sys2Proof.Machine
end

section
/-!
PROOF. When a preview can begin, and what it begins with (O24).
-/

namespace Sys2Proof.Machine

section Preview

variable {s : State}

theorem State.folioHolds_iff (id : Nat) :
    s.folioHolds id = true ↔ ∃ x ∈ s.store.records, x.1.programme = some id := by
  simp only [State.folioHolds, List.any_eq_true, beq_iff_eq]

theorem State.freeMeter_isSome_iff :
    s.freeMeter.isSome = true ↔ ∃ i, 1 ≤ i ∧ i ≤ 7 ∧ (s.meter i).use = .free ∧ (s.meter i).hold = none := by
  rw [Option.isSome_iff_ne_none, Ne, s.freeMeter_none, not_not]

/-- The conditions of R103, each read from its list. -/
theorem State.canPreview_iff (s : State) (p : Programme) : s.canPreview p = true ↔
    s.buying.billing = true ∧ 0 < (s.priceEntry p.priceClass).previewSeconds
      ∧ (∀ q ∈ s.buying.previews, q.programme ≠ p.id) ∧ (∀ c ∈ s.buying.commits, c.programme ≠ p.id)
      ∧ (∀ r ∈ s.buying.rentals, r.programme ≠ p.id) ∧ (∀ x ∈ s.store.records, x.1.programme ≠ some p.id)
      ∧ (∃ i, 1 ≤ i ∧ i ≤ 7 ∧ (s.meter i).use = .free ∧ (s.meter i).hold = none)
      ∧ s.notices.hotelTime ≠ none ∧ s.store.state = .ready := by
  have unseen : (s.previewOf p.id).isNone = true ↔ ∀ q ∈ s.buying.previews, q.programme ≠ p.id := by
    simp [State.previewOf]
  have uncommitted : (s.commitOf p.id).isNone = true ↔ ∀ c ∈ s.buying.commits, c.programme ≠ p.id := by
    simp [State.commitOf]
  have unrented : (s.rentalOf p.id).isNone = true ↔ ∀ r ∈ s.buying.rentals, r.programme ≠ p.id := by
    simp [State.rentalOf]
  have unrecorded : (!s.folioHolds p.id) = true ↔ ∀ x ∈ s.store.records, x.1.programme ≠ some p.id := by
    rw [Bool.not_eq_true', ← Bool.not_eq_true, State.folioHolds_iff]
    simp only [not_exists, not_and, ne_eq]
  simp only [State.canPreview, Bool.and_eq_true, decide_eq_true_eq, beq_iff_eq, unseen, uncommitted, unrented,
    unrecorded, State.freeMeter_isSome_iff, and_assoc]
  rw [Option.isSome_iff_ne_none]

/-- On an idle store a preview begins with the next record number, its APPEND in flight, and the free meter (R81, R103,
R125). -/
theorem State.beginPreview_idle {i : Nat} (n : Nat) (p : Programme) (meter : s.freeMeter = some i)
    (idle : s.store.queue = []) : s.beginPreview n p =
      { s with
        meters := s.meters.set i
          (Meter.preview p.id n s.store.nextRecord (s.priceEntry p.priceClass).previewSeconds)
        store := { s.store with
          nextRecord := s.store.nextRecord + 1
          queue := [(StoreOp.append
            { folio := s.store.folio, number := s.store.nextRecord, programme := p.id, channel := n,
              priceClass := p.priceClass, minutes := (s.priceEntry p.priceClass).rentalMinutes,
              commit := none }).queued] }
        buying := { s.buying with previews := s.buying.previews ++
          [{ programme := p.id, channel := n, record := s.store.nextRecord, meter := i, state := .running }] } } := by
  unfold State.beginPreview
  rw [meter]
  simp only [State.push_append, State.takeRecordNumber, State.setMeter, idle, List.nil_append]

end Preview

/-- Settles O24: the conditions of R103 one by one; a READY store is idle, so the APPEND is in flight at once. -/
theorem preview_begins_with_record_and_meter : Obligations.preview_begins_with_record_and_meter := by
  intro s n p
  refine ⟨s.canPreview_iff p, fun can _ => ?_⟩
  obtain ⟨-, -, -, -, -, -, room, -, ready⟩ := (s.canPreview_iff p).1 can
  obtain ⟨i, meter⟩ := Option.isSome_iff_exists.1 (State.freeMeter_isSome_iff.2 room)
  obtain ⟨low, high, free, unheld, lowest⟩ := s.freeMeter_some i meter
  exact ⟨i, low, high, free, unheld, lowest, State.beginPreview_idle n p meter (FolioStore.queue_of_ready ready)⟩

end Sys2Proof.Machine
end

section
/-!
PROOF. BUY (O41).
-/

namespace Sys2Proof.Machine

/-! ## What a BUY acts on (R97, R110) -/

section Target

variable {s : State} {n : Nat} {p : Programme}

theorem State.pricedProgramme_none
    (free : ∀ n p, s.composer.tuned = some n → s.current n = some p → s.priceOf p = 0) :
    s.pricedProgramme = none := by
  refine Option.filter_eq_none_iff.2 fun p current => ?_
  obtain ⟨n, tuned, here⟩ := Option.bind_eq_some_iff.1 current
  simp [free n p tuned here]

theorem State.pricedProgramme_some (tuned : s.composer.tuned = some n) (current : s.current n = some p)
    (priced : s.priceOf p ≠ 0) : s.pricedProgramme = some p := by
  refine Option.filter_eq_some_iff.2 ⟨Option.bind_eq_some_iff.2 ⟨n, tuned, current⟩, ?_⟩
  simpa using priced

/-- A free programme is not bought (R97). -/
theorem State.buyTarget_unpriced (unpriced : s.pricedProgramme = none) : s.buyTarget = none := by
  unfold State.buyTarget
  rw [unpriced]
  cases s.composer.tuned <;> rfl

/-- A BUY acts under the OFFER slate, or on the running preview shown. -/
theorem State.buyTarget_priced (tuned : s.composer.tuned = some n) (priced : s.pricedProgramme = some p) :
    s.buyTarget = if s.composer.decision = some (.slate .offer)
        ∨ s.composer.decision = some .show ∧ (s.runningPreview p.id).isSome = true then some (n, p) else none := by
  unfold State.buyTarget
  rw [tuned, priced]

theorem State.buyTarget_elsewhere (unoffered : s.composer.decision ≠ some (.slate .offer))
    (unshown : s.composer.decision ≠ some .show) : s.buyTarget = none := by
  cases tuned : s.composer.tuned with
  | none => simp [State.buyTarget, tuned]
  | some n =>
    cases priced : s.pricedProgramme with
    | none => exact State.buyTarget_unpriced priced
    | some p => exact (State.buyTarget_priced tuned priced).trans (if_neg (by simp [unoffered, unshown]))

end Target

/-! ## The checks of a BUY (R110) -/

/-- What makes a BUY wait: a store that is BUSY, closing or full of operations. -/
theorem FolioStore.buyWaits_iff (f : FolioStore) : (f.state = .busy ∨ f.closingTest = true ∨ f.queueFull = true) ↔
    (f.state = .busy ∨ f.closing = true ∨ 8 ≤ f.queue.length) := by
  have scanBusy : f.awaitingScan = true → f.state = .busy := fun awaits => if_pos awaits
  rw [f.closingTest_iff, FolioStore.queueFull, decide_eq_true_iff]
  tauto

/-- The checks in their order: WAIT, UNAVAILABLE, CREDIT. -/
theorem State.buyCheck_eq (s : State) (p : Programme) : s.buyCheck p =
    if s.store.state = .busy ∨ s.store.closing = true ∨ 8 ≤ s.store.queue.length then some .wait
    else if s.buying.billing = false ∨ s.notices.hotelTime = none ∨ s.store.state = .full
        ∨ s.store.state = .faulted ∨ s.runningPreview p.id = none ∧ s.freeMeter = none then some .unavailable
    else if s.buying.credit < s.store.folioTotal + s.pendingCharges + s.chargeNow (s.priceOf p) then some .credit
    else none := by
  have poor : s.creditAllows (s.chargeNow (s.priceOf p)) = false ↔
      s.buying.credit < s.store.folioTotal + s.pendingCharges + s.chargeNow (s.priceOf p) := by
    rw [State.creditAllows, decide_eq_false_iff_not, Nat.not_le]
  simp only [State.buyCheck, FolioStore.buyWaits_iff, poor, ← ite_or, or_assoc]

/-! ## The effect of a BUY (R111 to R113) -/

section Effect

variable {s : State} {n : Nat} {p : Programme}

theorem State.buy_untargeted (nothing : s.buyTarget = none) : s.buy = s := by
  unfold State.buy
  rw [nothing]

variable (target : s.buyTarget = some (n, p))
include target

theorem State.buy_refused {slate : Slate} (check : s.buyCheck p = some slate) :
    s.buy = s.refuseBuy slate n p := by
  unfold State.buy
  rw [target]
  dsimp only
  rw [check]

variable (check : s.buyCheck p = none)
include check

theorem State.buy_previewed {q : Preview} (running : s.runningPreview p.id = some q) : s.buy = s.previewBuy q p := by
  unfold State.buy
  rw [target]
  dsimp only
  rw [check, running]

theorem State.buy_direct {i : Nat} (still : s.runningPreview p.id = none) (meter : s.freeMeter = some i) :
    s.buy = s.directBuy i n p := by
  unfold State.buy
  rw [target]
  dsimp only
  rw [check, still, meter]

end Effect

/-- HOLD PREVIEW writes the commit hold of a meter that runs the programme's preview with none (R82). -/
theorem State.holdPreview_eq (i programme : Nat) (s : State) : s.holdPreview i programme =
    { s with meters := if (s.meter i).use = .preview ∧ (s.meter i).programme = some programme ∧ (s.meter i).hold = none
                       then s.meters.set i { s.meter i with hold := some programme } else s.meters } := by
  by_cases bound : (s.meter i).use = .preview ∧ (s.meter i).programme = some programme ∧ (s.meter i).hold = none
  · rw [if_pos bound]
    exact if_pos bound
  · rw [if_neg bound]
    exact if_neg bound

/-- The price fields of a commit accepted at hotel time h. -/
theorem State.commitFields_eq {s : State} {h : Nat} (p : Programme) (time : s.notices.hotelTime = some h) :
    s.commitFields p = { price := s.priceOf p, tax := taxOf (s.priceOf p) s.buying.taxRate,
                         charge := s.chargeNow (s.priceOf p), time := h } := by
  rw [State.commitFields, time]
  rfl

/-- A preview buy: the meter held, the preview BUYING, the ADVANCE to COMMITTED queued and the commit listed (R112). -/
theorem State.previewBuy_eq {s : State} {h : Nat} (q : Preview) (p : Programme) (time : s.notices.hotelTime = some h) :
    s.previewBuy q p = State.finish
    { s with
      meters :=
        if (s.meter q.meter).use = .preview ∧ (s.meter q.meter).programme = some p.id ∧ (s.meter q.meter).hold = none
        then s.meters.set q.meter { s.meter q.meter with hold := some p.id } else s.meters
      buying := { s.buying with
        previews := s.buying.previews.map fun x => if x.programme = p.id then { x with state := .buying } else x
        commits := s.buying.commits ++
          [{ programme := p.id, record := q.record, meter := q.meter, charge := s.chargeNow (s.priceOf p),
             time := h, kind := .fromPreview }] }
      store := { s.store with queue := s.store.queue ++
        [(StoreOp.advance q.record (.committed
          { price := s.priceOf p, tax := taxOf (s.priceOf p) s.buying.taxRate, charge := s.chargeNow (s.priceOf p),
            time := h })).queued] } } := by
  unfold State.previewBuy
  rw [State.commitFields_eq p time]
  dsimp only
  rw [State.push_advance, State.holdPreview_eq]
  rfl

/-- A direct buy: the free meter reserved, a record number given out, the APPEND in COMMITTED queued and the commit
listed (R113). -/
theorem State.directBuy_eq {s : State} {h : Nat} (i n : Nat) (p : Programme) (time : s.notices.hotelTime = some h) :
    s.directBuy i n p = State.finish
    { s with
      meters := s.meters.set i { Meter.free with hold := some p.id }
      buying := { s.buying with commits := s.buying.commits ++
          [{ programme := p.id, record := s.store.nextRecord, meter := i, charge := s.chargeNow (s.priceOf p),
             time := h, kind := .direct }] }
      store := { s.store with
        nextRecord := s.store.nextRecord + 1
        queue := s.store.queue ++ [(StoreOp.append
          { folio := s.store.folio, number := s.store.nextRecord, programme := p.id, channel := n,
            priceClass := p.priceClass, minutes := (s.priceEntry p.priceClass).rentalMinutes,
            commit := some
              { price := s.priceOf p, tax := taxOf (s.priceOf p) s.buying.taxRate,
                charge := s.chargeNow (s.priceOf p), time := h } }).queued] } } := by
  unfold State.directBuy State.directRecord
  rw [State.commitFields_eq p time]
  dsimp only
  rw [State.push_append]
  rfl

/-- Settles O41: what the BUY acts on, then the checks in R110's order, then the effect; the key has struck before. -/
theorem buy_is_ignored_refused_or_accepted : Obligations.buy_is_ignored_refused_or_accepted := by
  intro s awake k
  have ignored (nothing : s.buyTarget = none) : exec (.buy false) s = .next k :=
    exec_key (ds := []) _ 13 awake rfl (State.buy_untargeted (s := s.struck []) nothing) rfl
  have finishes {t : State} (acts : (s.struck []).buy = t.finish) (pad : t.keypad = (s.struck []).keypad) :
      ∃ u, exec (.buy false) s = .next u ∧ Redecided (t.withKeypad k.keypad) u :=
    exec_key_redecides (ds := []) _ 13 awake rfl acts pad
  refine ⟨fun unoffered unshown => ignored (State.buyTarget_elsewhere unoffered unshown),
    fun free => ignored (State.buyTarget_unpriced (State.pricedProgramme_none free)),
    fun n p tuned current priced => ⟨fun shown still => ignored ?_, fun acts => ?_⟩⟩
  · refine (State.buyTarget_priced tuned (State.pricedProgramme_some tuned current priced)).trans (if_neg ?_)
    simp [shown, still]
  intro charge waits closed poor refusal refuses
  have target : s.buyTarget = some (n, p) := by
    refine (State.buyTarget_priced tuned (State.pricedProgramme_some tuned current priced)).trans (if_pos ?_)
    rwa [Option.isSome_iff_ne_none]
  have check := s.buyCheck_eq p
  have refused {slate : Slate} (h : s.buyCheck p = some slate) : refuses slate :=
    finishes (State.buy_refused (s := s.struck []) target h) rfl
  refine ⟨fun h => refused (check.trans (if_pos h)),
    fun free h => refused (check.trans ((if_neg free).trans (if_pos h))),
    fun free opened h => refused (check.trans ((if_neg free).trans ((if_neg opened).trans (if_pos h)))),
    fun free opened affords h time => ?_⟩
  have passes : s.buyCheck p = none :=
    check.trans ((if_neg free).trans ((if_neg opened).trans (if_neg affords)))
  refine ⟨fun q running => ?_, fun i still meter => ?_⟩
  · exact finishes ((State.buy_previewed (s := s.struck []) target passes running).trans
      (State.previewBuy_eq (s := s.struck []) q p time)) rfl
  · exact finishes ((State.buy_direct (s := s.struck []) target passes still meter).trans
      (State.directBuy_eq (s := s.struck []) i n p time)) rfl

end Sys2Proof.Machine
end

section
/-!
PROOF. Slate cells and the texts of their fill fields (O43).
-/

namespace Sys2Proof.Machine

/-! ## Numbers as text (R172) -/

/-- A number in decimal: 0 as one digit, any other without leading zeros. -/
def numeral (n : Nat) : List Byte :=
  if n = 0 then [0x30] else (Nat.digits 10 n).reverse.map fun d => BitVec.ofNat 8 (48 + d)

theorem numeral_digit {n : Nat} (small : n < 10) : numeral n = [BitVec.ofNat 8 (48 + n)] := by
  unfold numeral
  split
  · next zero => rw [zero]; rfl
  · next pos => rw [Nat.digits_of_lt 10 n pos small]; rfl

theorem numeral_step {n : Nat} (large : 10 ≤ n) : numeral n = numeral (n / 10) ++ [BitVec.ofNat 8 (48 + n % 10)] := by
  have pos : n ≠ 0 := by omega
  have rest : n / 10 ≠ 0 := by omega
  simp only [numeral, if_neg pos, if_neg rest, Nat.digits_def' (by decide : 1 < 10) (Nat.pos_of_ne_zero pos),
    List.reverse_cons, List.map_append, List.map_cons, List.map_nil]

theorem decimalAux_eq_numeral (fuel n : Nat) (bound : n < 10 ^ (fuel + 1)) : decimalAux fuel n = numeral n := by
  induction fuel generalizing n with
  | zero =>
    have small : n < 10 := by simpa using bound
    rw [numeral_digit small, decimalAux, Nat.mod_eq_of_lt small]
  | succ fuel ih =>
    rw [decimalAux]
    split
    · next small => exact (numeral_digit small).symm
    · next large =>
      have less : n / 10 < 10 ^ (fuel + 1) := Nat.div_lt_of_lt_mul (by rwa [Nat.mul_comm, ← pow_succ])
      rw [ih _ less, numeral_step (Nat.le_of_not_lt large)]

theorem decimal_eq_numeral {n : Nat} (bound : n < 10000000000000) : decimal n = numeral n :=
  decimalAux_eq_numeral 12 n bound

/-- Money is dollars and two digits of cents. -/
theorem moneyText_eq {cents : Nat} (bound : cents ≤ 1000000) : moneyText cents =
    numeral (cents / 100) ++ [0x2E, BitVec.ofNat 8 (48 + cents / 10 % 10), BitVec.ofNat 8 (48 + cents % 10)] := by
  have tens : cents % 100 / 10 = cents / 10 % 10 := by omega
  rw [moneyText, decimal_eq_numeral (by omega), tens]

theorem hoursText_eq {minutes : Nat} (bound : minutes ≤ 4320) : hoursText minutes =
    numeral ((minutes * 10 + 30) / 60 / 10) ++ [0x2E, BitVec.ofNat 8 (48 + (minutes * 10 + 30) / 60 % 10)] := by
  rw [hoursText, decimal_eq_numeral (by omega)]

/-! ## The fill kinds (R173) -/

section Fill

variable {s : State} {p : Programme}

/-- No charge exceeds 81,918 (R100 step 4). -/
theorem State.chargeNow_le (s : State) (price : Nat) : s.chargeNow price ≤ 81918 := Nat.min_le_right _ _

theorem State.pricedProgramme_of_current (current : s.tunedCurrent = some p) (priced : s.priceOf p ≠ 0) :
    s.pricedProgramme = some p :=
  Option.filter_eq_some_iff.2 ⟨current, by simpa using priced⟩

theorem State.pricedProgramme_of_free (free : ∀ p, s.tunedCurrent = some p → s.priceOf p = 0) :
    s.pricedProgramme = none :=
  Option.filter_eq_none_iff.2 fun p current => by simp [free p current]

theorem State.fillText_price (priced : s.pricedProgramme = some p) :
    s.fillText .price = moneyText (s.chargeNow (s.priceOf p)) := by
  unfold State.fillText
  rw [priced]

theorem State.fillText_rentalHours (priced : s.pricedProgramme = some p) :
    s.fillText .rentalHours = hoursText (s.priceEntry p.priceClass).rentalMinutes := by
  unfold State.fillText
  rw [priced]

/-- A free or absent programme has neither price nor rental hours. -/
theorem State.fillText_unpriced (unpriced : s.pricedProgramme = none) :
    s.fillText .price = [] ∧ s.fillText .rentalHours = [] := by
  unfold State.fillText
  rw [unpriced]
  exact ⟨rfl, rfl⟩

/-- Whether a meter runs the preview of a programme id (R93). -/
def Meter.previews (id : Nat) (m : Meter) : Bool := m.use == .preview && m.programme == some id

theorem Meter.previews_iff (id : Nat) (m : Meter) :
    m.previews id = true ↔ m.use = .preview ∧ m.programme = some id := by
  simp [Meter.previews]

theorem State.previewLeft_eq (s : State) (id : Nat) : s.previewLeft id =
    (s.meters.find? (Meter.previews id)).map fun m => m.period.getD 0 - m.count := rfl

/-- The preview seconds left are those of the first PREVIEW meter of the programme (R93). -/
theorem State.fillText_previewLeft {as bs : List Meter} {m : Meter} {seconds : Nat} (current : s.tunedCurrent = some p)
    (meters : s.meters = as ++ m :: bs) (runs : m.use = .preview ∧ m.programme = some p.id)
    (first : ∀ x ∈ as, ¬ (x.use = .preview ∧ x.programme = some p.id)) (period : m.period = some seconds) :
    s.fillText .previewLeft = decimal (seconds - m.count) := by
  have found : s.meters.find? (Meter.previews p.id) = some m := by
    rw [meters, List.find?_append, List.find?_eq_none.2 fun x hx => mt (x.previews_iff p.id).1 (first x hx),
      Option.none_or]
    exact List.find?_cons_of_pos ((m.previews_iff p.id).2 runs)
  have left : s.previewLeft p.id = some (seconds - m.count) := by
    rw [State.previewLeft_eq, found, Option.map_some, period]
    rfl
  unfold State.fillText
  rw [current, Option.bind_some, left]

theorem State.fillText_no_preview
    (unseen : ∀ p, s.tunedCurrent = some p → ∀ m ∈ s.meters, ¬ (m.use = .preview ∧ m.programme = some p.id)) :
    s.fillText .previewLeft = [] := by
  have left : (s.tunedCurrent.bind fun p => s.previewLeft p.id) = none := by
    refine Option.bind_eq_none_iff.2 fun p current => ?_
    rw [State.previewLeft_eq, List.find?_eq_none.2 fun x hx => mt (x.previews_iff p.id).1 (unseen p current x hx)]
    rfl
  unfold State.fillText
  rw [left]

theorem State.fillText_pinMask (s : State) :
    s.fillText .pinMask = List.replicate s.lock.entry.digits.length 0x2A := rfl

theorem State.fillText_channel {n : Nat} (tuned : s.composer.tuned = some n) : s.fillText .channel = decimal n := by
  unfold State.fillText
  rw [tuned]

theorem State.fillText_no_channel (untuned : s.composer.tuned = none) : s.fillText .channel = [] := by
  unfold State.fillText
  rw [untuned]

end Fill

/-! ## The overlay of the fill fields (R172) -/

/-- The payload with the text of each fill field written over it. -/
def filled (text : FillField → List Byte) (fills : List FillField) (payload : List Byte) : List Byte :=
  fills.foldl (fun p f => overlay p f.offset (text f)) payload

section Overlay

variable {text : FillField → List Byte}

theorem filled_cons (f : FillField) (fills : List FillField) (payload : List Byte) :
    filled text (f :: fills) payload = filled text fills (overlay payload f.offset (text f)) := rfl

variable {fills : List FillField} (eight : ∀ f ∈ fills, (text f).length = 8)
include eight

theorem filled_length {payload : List Byte} (fits : ∀ f ∈ fills, f.offset + 8 ≤ payload.length) :
    (filled text fills payload).length = payload.length := by
  induction fills generalizing payload with
  | nil => rfl
  | cons f fills ih =>
    have here : (overlay payload f.offset (text f)).length = payload.length :=
      overlay_length _ _ _ (by rw [eight f List.mem_cons_self]; exact fits f List.mem_cons_self)
    rw [filled_cons, ih (fun g hg => eight g (List.mem_cons_of_mem _ hg)), here]
    exact fun g hg => here ▸ fits g (List.mem_cons_of_mem _ hg)

/-- A byte under no fill field is the payload's own. -/
theorem filled_outside {payload : List Byte} (fits : ∀ f ∈ fills, f.offset + 8 ≤ payload.length) {i : Nat}
    (outside : ∀ f ∈ fills, i < f.offset ∨ f.offset + 8 ≤ i) :
    (filled text fills payload).getD i 0 = payload.getD i 0 := by
  induction fills generalizing payload with
  | nil => rfl
  | cons f fills ih =>
    have len := eight f List.mem_cons_self
    have room := fits f List.mem_cons_self
    have away := outside f List.mem_cons_self
    have here : (overlay payload f.offset (text f)).length = payload.length := overlay_length _ _ _ (by omega)
    rw [filled_cons, ih (fun g hg => eight g (List.mem_cons_of_mem _ hg))
      (fun g hg => here ▸ fits g (List.mem_cons_of_mem _ hg)) (fun g hg => outside g (List.mem_cons_of_mem _ hg)),
      overlay_getD _ _ _ (by omega), if_neg (by omega)]

/-- Under a fill field stands its text, where no other field overlaps it. -/
theorem filled_inside {payload : List Byte} (fits : ∀ f ∈ fills, f.offset + 8 ≤ payload.length)
    (apart : fills.Pairwise fun f g => f.offset + 8 ≤ g.offset ∨ g.offset + 8 ≤ f.offset) {f : FillField}
    (member : f ∈ fills) {j : Nat} (inside : j < 8) :
    (filled text fills payload).getD (f.offset + j) 0 = (text f).getD j 0 := by
  induction fills generalizing payload with
  | nil => cases member
  | cons g fills ih =>
    have len := eight g List.mem_cons_self
    have room := fits g List.mem_cons_self
    have here : (overlay payload g.offset (text g)).length = payload.length := overlay_length _ _ _ (by omega)
    have eightRest : ∀ x ∈ fills, (text x).length = 8 := fun x hx => eight x (List.mem_cons_of_mem _ hx)
    have fitsRest : ∀ x ∈ fills, x.offset + 8 ≤ (overlay payload g.offset (text g)).length :=
      fun x hx => here ▸ fits x (List.mem_cons_of_mem _ hx)
    obtain ⟨ahead, apartRest⟩ := List.pairwise_cons.1 apart
    rw [filled_cons]
    rcases List.mem_cons.1 member with rfl | later
    · rw [filled_outside eightRest fitsRest fun x hx => by have := ahead x hx; omega,
        overlay_getD _ _ _ (by omega), if_pos (by omega), Nat.add_sub_cancel_left]
    · exact ih eightRest fitsRest apartRest later

end Overlay

/-- A right-aligned text: spaces, then the text (R172). -/
theorem rightAligned_getD (tx : List Byte) (j : Nat) : (rightAligned tx).getD j 0 =
    if j < 8 - tx.length then 0x20 else tx.getD (j - (8 - tx.length)) 0 := by
  rw [rightAligned, List.getD_eq_getElem?_getD, List.getElem?_append, List.length_replicate, List.getElem?_replicate]
  split <;> simp [*]

/-- Settles O43: the texts by fill kind, and the overlay byte by byte. -/
theorem slate_cell_carries_its_fill_fields : Obligations.slate_cell_carries_its_fill_fields := by
  refine ⟨fun s => ?_, fun s h b seq whole short fills apart => ?_⟩
  · refine ⟨fun p current priced => ?_, fun free => State.fillText_unpriced (State.pricedProgramme_of_free free),
      fun p as m bs seconds current meters runs first period bound => ?_, State.fillText_no_preview, fun bound => ?_,
      fun ds k entry => ?_, fun entry => ?_, fun n tuned bound => ?_, State.fillText_no_channel⟩
    · have programme := State.pricedProgramme_of_current current priced
      have bound := s.chargeNow_le (s.priceOf p)
      exact ⟨(State.fillText_price programme).trans (moneyText_eq (by omega)),
        fun short => (State.fillText_rentalHours programme).trans (hoursText_eq short)⟩
    · exact (State.fillText_previewLeft current meters runs first period).trans (decimal_eq_numeral (by omega))
    · exact moneyText_eq (by omega)
    · rcases entry with ⟨n, entry⟩ | ⟨n, entry⟩ <;> rw [State.fillText_pinMask, entry] <;> rfl
    · rcases entry with entry | ⟨k, entry⟩ <;> rw [State.fillText_pinMask, entry] <;> rfl
    · exact (State.fillText_channel tuned).trans (decimal_eq_numeral (by omega))
  · let text (f : FillField) := rightAligned (s.fillText f.kind)
    have eight : ∀ f ∈ h.fills, (text f).length = 8 := fun f hf => rightAligned_length _ (fills f hf).2
    have fits : ∀ f ∈ h.fills, f.offset + 8 ≤ b.length := fun f hf => by
      have := (fills f hf).1
      omega
    refine ⟨rfl, rfl, rfl, rfl, rfl, (filled_length eight fits).trans whole,
      fun i _ outside => filled_outside eight fits outside, fun f member j inside => ?_⟩
    exact (filled_inside eight fits apart member inside).trans (rightAligned_getD _ j)

end Sys2Proof.Machine
end

section
/-!
PROOF. Rental restoration (O46).
-/

namespace Sys2Proof.Machine

/-! ## The records kept (R143 steps 1 to 3) -/

theorem FolioStore.slots_ascending (f : FolioStore) : f.slots.Pairwise fun x y => x.2 < y.2 := by
  refine List.pairwise_iff_getElem.2 fun i j hi hj less => ?_
  simpa [FolioStore.slots] using less

theorem FolioStore.restorable_ascending (f : FolioStore) (h : Nat) :
    (f.restorable h).Pairwise fun x y => x.2 < y.2 :=
  (f.slots_ascending.filter _).filter _

theorem FolioStore.mem_restorable (f : FolioStore) (h : Nat) (x : Slot × Nat) :
    x ∈ f.restorable h ↔ x ∈ f.records ∧ x.1.committed = true ∧ h < x.1.rentalEnd := by
  simp only [FolioStore.restorable, List.mem_filter, Bool.and_eq_true, decide_eq_true_eq]

/-- Entries in ascending order of their numbers are told apart by them. -/
theorem eq_of_number_eq {xs : List (Slot × Nat)} (ascending : xs.Pairwise fun x y => x.2 < y.2) {x y : Slot × Nat}
    (hx : x ∈ xs) (hy : y ∈ xs) (same : x.2 = y.2) : x = y := by
  have distinct : (xs.map Prod.snd).Nodup := List.pairwise_map.2 (ascending.imp Nat.ne_of_lt)
  exact List.inj_on_of_nodup_map distinct hx hy same

theorem nodup_of_ascending {xs : List (Slot × Nat)} (ascending : xs.Pairwise fun x y => x.2 < y.2) : xs.Nodup :=
  ascending.imp fun less same => absurd (congrArg Prod.snd same) (Nat.ne_of_lt less)

theorem endsBefore_iff (y x : Slot × Nat) : endsBefore y x = true ↔
    y.1.rentalEnd < x.1.rentalEnd ∨ y.1.rentalEnd = x.1.rentalEnd ∧ y.2 < x.2 := by
  simp [endsBefore]

theorem replacedBy_iff (x y : Slot × Nat) : replacedBy x y = true ↔ x.1.programme = y.1.programme
    ∧ (x.1.rentalEnd < y.1.rentalEnd ∨ x.1.rentalEnd = y.1.rentalEnd ∧ x.2 < y.2) := by
  simp [replacedBy]

/-- The record that is kept of a programme ends after the others of it, or with them and has the highest number (R143
step 2). -/
theorem mem_onePerProgramme {xs : List (Slot × Nat)} (ascending : xs.Pairwise fun x y => x.2 < y.2) (x : Slot × Nat) :
    x ∈ onePerProgramme xs ↔ x ∈ xs ∧ ∀ y ∈ xs, y.1.programme = x.1.programme → y ≠ x →
      y.1.rentalEnd < x.1.rentalEnd ∨ y.1.rentalEnd = x.1.rentalEnd ∧ y.2 < x.2 := by
  simp only [onePerProgramme, List.mem_filter, Bool.not_eq_true', List.any_eq_false, replacedBy_iff]
  refine and_congr_right fun hx => forall₂_congr fun y hy => ⟨fun stays same differ => ?_, fun last ⟨same, later⟩ => ?_⟩
  · have numbers : y.2 ≠ x.2 := fun eq => differ (eq_of_number_eq ascending hy hx eq)
    have := not_and.1 stays same.symm
    omega
  · have := last same.symm (by rintro rfl; omega)
    omega

/-- A record is kept while fewer than seven end before it (R143 step 3). -/
theorem mem_earliestSeven {xs : List (Slot × Nat)} (distinct : xs.Nodup) (x : Slot × Nat) :
    x ∈ earliestSeven xs ↔ x ∈ xs ∧ ∀ ys : List (Slot × Nat), ys.Nodup →
      (∀ y ∈ ys, y ∈ xs ∧ (y.1.rentalEnd < x.1.rentalEnd ∨ y.1.rentalEnd = x.1.rentalEnd ∧ y.2 < x.2)) →
      ys.length < 7 := by
  simp only [earliestSeven, List.mem_filter, decide_eq_true_eq]
  refine and_congr_right fun _ => ⟨fun few ys nodup before => ?_, fun few => ?_⟩
  · refine Nat.lt_of_le_of_lt (List.subperm_of_subset nodup fun y hy => ?_).length_le few
    exact List.mem_filter.2 ((before y hy).imp id (endsBefore_iff y x).2)
  · exact few _ (distinct.filter _) fun y hy => (List.mem_filter.1 hy).imp id (endsBefore_iff y x).1

/-- No more than seven records are kept: of those kept, all but the last to end do so before it. -/
theorem earliestSeven_length {xs : List (Slot × Nat)} (ascending : xs.Pairwise fun x y => x.2 < y.2) :
    (earliestSeven xs).length ≤ 7 := by
  let key (x : Slot × Nat) : Nat ×ₗ Nat := toLex (x.1.rentalEnd, x.2)
  cases last : (earliestSeven xs).argmax key with
  | none => rw [List.argmax_eq_none.1 last]; decide
  | some x =>
    have distinct := nodup_of_ascending ascending
    have kept := List.argmax_mem last
    have others : ((earliestSeven xs).erase x).length < 7 := by
      refine ((mem_earliestSeven distinct x).1 kept).2 _ ((distinct.filter _).erase x) fun y hy => ?_
      obtain ⟨differ, member⟩ := ((distinct.filter _).mem_erase_iff).1 hy
      have inList : y ∈ xs := (List.mem_filter.1 member).1
      have below : key y ≤ key x := List.le_of_mem_argmax member last
      have numbers : y.2 ≠ x.2 := fun eq => differ (eq_of_number_eq ascending inList (List.mem_filter.1 kept).1 eq)
      have := Prod.Lex.toLex_le_toLex.1 below
      exact ⟨inList, by dsimp only at this; omega⟩
    rw [List.length_erase_of_mem kept] at others
    omega

/-! ## What each is given (R84, R143 step 4) -/

/-- The rental table entry of a restored record. -/
def rentalEntry (x : Slot × Nat) (meter : Nat) : Rental :=
  { programme := x.1.programme.getD 0, record := x.2, meter := meter, endTime := x.1.rentalEnd,
    extension := if x.1.extension.isSome then .written else .none }

/-- The meter of a restored record at a hotel time. -/
def rentalMeter (hotel : Nat) (x : Slot × Nat) : Meter :=
  Meter.rental (x.1.programme.getD 0) x.2 (min (x.1.rentalEnd - hotel) (x.1.totalMinutes * 60))

theorem State.restoreRental_eq {s : State} {x : Slot × Nat} {m : Nat} (hotel : Nat) (room : s.freeMeter = some m)
    (programme : x.1.programme ≠ none) : State.restoreRental hotel s x =
      { s with meters := s.meters.set m (rentalMeter hotel x)
               buying := { s.buying with rentals := s.buying.rentals ++ [rentalEntry x m] } } := by
  obtain ⟨id, known⟩ := Option.ne_none_iff_exists'.1 programme
  unfold State.restoreRental rentalEntry rentalMeter
  rw [room, known]
  rfl

/-- Of meters 1..7, those above k are free for allocation and no other. -/
def State.FreeAbove (s : State) (k : Nat) : Prop :=
  ∀ i, 1 ≤ i → i ≤ 7 → ((s.meter i).use = .free ∧ (s.meter i).hold = none ↔ k < i)

theorem State.freeMeter_above {s : State} {k : Nat} (free : s.FreeAbove k) (room : k < 7) :
    s.freeMeter = some (k + 1) := by
  have next := (free (k + 1) (by omega) (by omega)).2 (by omega)
  obtain ⟨i, found⟩ := Option.isSome_iff_exists.1
    (State.freeMeter_isSome_iff.2 ⟨k + 1, by omega, by omega, next⟩)
  obtain ⟨low, high, unused, unheld, lowest⟩ := s.freeMeter_some i found
  have above := (free i low high).1 ⟨unused, unheld⟩
  have lowestNext : ¬ k + 1 < i := fun less => lowest (k + 1) (by omega) less next
  rw [found]
  congr 1
  omega

/-- t is s after records xs have been restored in order, each on the meter after the one before, from k + 1 on. -/
structure RentalsRestored (hotel k : Nat) (xs : List (Slot × Nat)) (s t : State) : Prop where
  same : { t with meters := s.meters, buying := { t.buying with rentals := s.buying.rentals } } = s
  rentals : t.buying.rentals = s.buying.rentals ++ (xs.zipIdx (k + 1)).map fun p => rentalEntry p.1 p.2
  given : ∀ p ∈ xs.zipIdx (k + 1), t.meter p.2 = rentalMeter hotel p.1
  others : ∀ i, i ≤ k ∨ k + xs.length < i → t.meter i = s.meter i

theorem State.restoreRentals_restored (hotel : Nat) (xs : List (Slot × Nat)) (k : Nat) (s : State)
    (known : ∀ x ∈ xs, x.1.programme ≠ none) (free : s.FreeAbove k) (meters : s.meters.length = 8)
    (room : k + xs.length ≤ 7) : RentalsRestored hotel k xs s (xs.foldl (State.restoreRental hotel) s) := by
  induction xs generalizing k s with
  | nil => exact ⟨rfl, by simp, by simp, fun _ _ => rfl⟩
  | cons x xs ih =>
    rw [List.length_cons] at room
    have step := State.restoreRental_eq hotel (State.freeMeter_above free (by omega)) (known x List.mem_cons_self)
    have meter (i : Nat) : (State.restoreRental hotel s x).meter i =
        if i = k + 1 then rentalMeter hotel x else s.meter i := by
      have written : (State.restoreRental hotel s x).meter i = (s.setMeter (k + 1) (rentalMeter hotel x)).meter i := by
        rw [step]
        rfl
      rw [written, State.meter_setMeter]
      exact if_congr (by omega) rfl rfl
    have freeNext : (State.restoreRental hotel s x).FreeAbove (k + 1) := by
      intro i low high
      rw [meter i]
      by_cases here : i = k + 1
      · rw [if_pos here]
        exact iff_of_false (fun free => by cases free.1) (by omega)
      · rw [if_neg here, free i low high]
        omega
    have length : (State.restoreRental hotel s x).meters.length = 8 := by
      rw [step]
      simpa using meters
    obtain ⟨same, rentals, given, others⟩ := ih (k + 1) _ (fun y hy => known y (List.mem_cons_of_mem _ hy)) freeNext
      length (by omega)
    rw [List.foldl_cons]
    refine ⟨?_, ?_, ?_, fun i outside => ?_⟩
    · rw [step] at same ⊢
      exact congrArg (fun u : State =>
        { u with meters := s.meters, buying := { u.buying with rentals := s.buying.rentals } }) same
    · rw [rentals, step, List.zipIdx_cons, List.map_cons, List.append_assoc]
      rfl
    · rw [List.zipIdx_cons, List.forall_mem_cons]
      refine ⟨?_, given⟩
      rw [others (k + 1) (.inl (Nat.le_refl _)), meter, if_pos rfl]
    · rw [List.length_cons] at outside
      rw [others i (by omega), meter, if_neg (by omega)]

/-- The records that a restoration keeps, in record-number order. -/
def FolioStore.kept (f : FolioStore) (hotel : Nat) : List (Slot × Nat) :=
  earliestSeven (onePerProgramme (f.restorable hotel))

theorem FolioStore.kept_ascending (f : FolioStore) (hotel : Nat) : (f.kept hotel).Pairwise fun x y => x.2 < y.2 :=
  ((f.restorable_ascending hotel).filter _).filter _

theorem FolioStore.records_of_kept {f : FolioStore} {hotel : Nat} {x : Slot × Nat} (kept : x ∈ f.kept hotel) :
    x ∈ f.records :=
  ((f.mem_restorable hotel x).1 (List.mem_filter.1 (List.mem_filter.1 kept).1).1).1

theorem State.restoreRentals_eq {s : State} {hotel : Nat} (time : s.notices.hotelTime = some hotel)
    (opened : s.store.closing = false) :
    s.restoreRentals = (s.store.kept hotel).foldl (State.restoreRental hotel) s := by
  unfold State.restoreRentals
  rw [time]
  exact if_neg (by simp [opened])

theorem exists_mem_zipIdx {xs : List (Slot × Nat)} {x : Slot × Nat} (member : x ∈ xs) : ∃ m, (x, m) ∈ xs.zipIdx 1 := by
  obtain ⟨j, there⟩ := List.mem_iff_getElem?.1 member
  exact ⟨j + 1, List.mem_zipIdx_iff_le_and_getElem?_sub.2 ⟨by omega, there⟩⟩

/-- The entries stand in record-number order. -/
theorem newRentals_ascending {xs : List (Slot × Nat)} (ascending : xs.Pairwise fun x y => x.2 < y.2) :
    ((xs.zipIdx 1).map fun p => rentalEntry p.1 p.2).Pairwise fun r q => r.record < q.record := by
  refine List.pairwise_map.2 (List.pairwise_iff_getElem.2 fun i j hi hj less => ?_)
  simp only [List.length_zipIdx] at hi hj
  simpa [rentalEntry] using List.pairwise_iff_getElem.1 ascending i j hi hj less

/-- Settles O46: which records are kept, and what the fold over them gives each. -/
theorem restoration_gives_meters_to_rentals : Obligations.restoration_gives_meters_to_rentals := by
  intro s h time opened meters free known minutes ends qualifies best first kept t
  have ascending := s.store.kept_ascending h
  have length : (s.store.kept h).length ≤ 7 :=
    earliestSeven_length ((s.store.restorable_ascending h).filter _)
  have member (x : Slot × Nat) : x ∈ s.store.kept h ↔ kept x := by
    have restorable (x) : x ∈ s.store.restorable h ↔ qualifies x := s.store.mem_restorable h x
    have one (x) : x ∈ onePerProgramme (s.store.restorable h) ↔ best x := by
      rw [mem_onePerProgramme (s.store.restorable_ascending h)]
      simp only [restorable]
      rfl
    have distinct : (onePerProgramme (s.store.restorable h)).Nodup :=
      nodup_of_ascending ((s.store.restorable_ascending h).filter _)
    rw [FolioStore.kept, mem_earliestSeven distinct]
    simp only [one]
    rfl
  have restored : RentalsRestored h 0 (s.store.kept h) s t := by
    rw [show t = _ from State.restoreRentals_eq time opened]
    refine State.restoreRentals_restored h _ 0 s (fun x hx => known x (FolioStore.records_of_kept hx))
      (fun i low high => iff_of_true (free i low high) low) meters (by omega)
  obtain ⟨same, rentals, given, others⟩ := restored
  rw [Nat.zero_add] at rentals given
  refine ⟨same, _, rentals, newRentals_ascending ascending, fun x hx => ?_, fun j r there => ?_, fun i unused => ?_,
    fun r hr => ?_⟩
  · obtain ⟨m, given⟩ := exists_mem_zipIdx ((member x).2 hx)
    exact ⟨rentalEntry x m, List.mem_map_of_mem given, rfl⟩
  · simp only [List.getElem?_map, List.getElem?_zipIdx, Option.map_map, Option.map_eq_some_iff] at there
    obtain ⟨x, -, rfl⟩ := there
    exact Nat.add_comm 1 j
  · refine others i ?_
    by_contra used
    have inside : i - 1 < (s.store.kept h).length := by omega
    have paired : ((s.store.kept h)[i - 1], i) ∈ (s.store.kept h).zipIdx 1 :=
      List.mem_zipIdx_iff_le_and_getElem?_sub.2 ⟨by omega, List.getElem?_eq_getElem inside⟩
    exact unused _ (List.mem_map_of_mem paired) rfl
  · obtain ⟨⟨x, m⟩, paired, rfl⟩ := List.mem_map.1 hr
    obtain ⟨low, there⟩ := List.mem_zipIdx_iff_le_and_getElem?_sub.1 paired
    obtain ⟨(inside : m - 1 < (s.store.kept h).length), -⟩ := List.getElem?_eq_some_iff.1 there
    have inList := List.mem_of_getElem? there
    obtain ⟨id, programme⟩ := Option.ne_none_iff_exists'.1 (known x (FolioStore.records_of_kept inList))
    refine ⟨x, (member x).1 inList, rfl, ?_, rfl, ?_, low, ?_, given _ paired⟩
    · rw [rentalEntry, programme]
      rfl
    · cases extended : x.1.extension <;> simp [rentalEntry, extended]
    · show m ≤ 7
      omega

end Sys2Proof.Machine
end

section
/-!
PROOF. A completion OK (O55).
-/

namespace Sys2Proof.Machine

/-! ## What the store's queue leaves of the rest -/

/-- Of the part, t differs from s in the store and in the marking list alone. -/
def QueueOnly (s t : State) : Prop :=
  ∃ store marking, t = { s with store := store, buying := { s.buying with marking := marking } }

namespace QueueOnly

variable {s t u : State}

theorem refl (s : State) : QueueOnly s s := ⟨s.store, s.buying.marking, rfl⟩

theorem trans (h : QueueOnly s t) (k : QueueOnly t u) : QueueOnly s u := by
  obtain ⟨_, _, rfl⟩ := h
  obtain ⟨store, marking, rfl⟩ := k
  exact ⟨store, marking, rfl⟩

theorem of_store (h : { t with store := s.store } = s) : QueueOnly s t :=
  ⟨t.store, s.buying.marking, congrArg (fun x : State => { x with store := t.store }) h⟩

theorem push (op : StoreOp) (s : State) : QueueOnly s (s.push op) := of_store (State.pushAll_same [op] s).1

theorem takeMarking (s : State) : QueueOnly s s.takeMarking := by
  unfold State.takeMarking
  split
  · exact refl s
  · next n rest _ =>
    split
    · exact trans (t := { s with buying := { s.buying with marking := rest } }) ⟨s.store, rest, rfl⟩ (push _ _)
    · exact refl s

theorem takeScanList (s : State) : QueueOnly s s.takeScanList := by
  unfold State.takeScanList
  split
  · exact refl s
  · split
    · exact trans (of_store rfl) (push _ _)
    · exact refl s

theorem fillRoom (s : State) : QueueOnly s s.fillRoom := (takeMarking s).trans (takeScanList _)

theorem startHead (s : State) : QueueOnly s s.startHead := of_store s.startHead_facts.2.2

theorem startNext (more : Nat) (s : State) : QueueOnly s (s.startNext more) := by
  induction more generalizing s with
  | zero => exact startHead s
  | succ more ih =>
    unfold State.startNext
    split
    · exact ((of_store rfl).trans (fillRoom s.popOp)).trans (ih _)
    · exact startHead s

theorem startClose (s : State) : QueueOnly s s.startClose := by
  unfold State.startClose
  split
  · exact of_store (State.pushAll_same _ s).1
  · exact refl s

theorem proceed (op : StoreOp) (s : State) : QueueOnly s (s.proceed op) := by
  unfold State.proceed
  split
  · exact startClose s
  · exact startNext _ s

/-- What it keeps of the purchase unit, the meters and the reply unit. -/
theorem kept (h : QueueOnly s t) (xs : List Nat) :
    { t.buying with marking := xs } = { s.buying with marking := xs } ∧ t.meters = s.meters ∧ t.reply = s.reply := by
  obtain ⟨_, _, rfl⟩ := h
  exact ⟨rfl, rfl, rfl⟩

end QueueOnly

/-! ## What the requester does (R114, R121) -/

section Requester

variable {s : State} {n : Nat}

theorem State.dropBought_eq (c : Commit) (s : State) : s.dropBought c =
    { s with buying := { s.buying with
        previews := if c.kind = .fromPreview then s.buying.previews.filter fun p => p.programme != c.programme
                    else s.buying.previews } } := by
  unfold State.dropBought
  cases c.kind <;> rfl

theorem State.startRental_eq (i programme record period : Nat) (s : State) : s.startRental i programme record period =
    { s with meters := if (s.meter i).hold = some programme then s.meters.set i (Meter.rental programme record period)
                       else s.meters } := by
  by_cases held : (s.meter i).hold = some programme
  · rw [if_pos held]
    exact if_pos held
  · rw [if_neg held]
    exact if_neg held

theorem State.setBuffered_eq (i record period : Nat) (s : State) : s.setBuffered i record period =
    { s with meters := if (s.meter i).use = .rental ∧ (s.meter i).record = some record
                       then s.meters.set i { s.meter i with buffered := some period } else s.meters } := by
  by_cases bound : (s.meter i).use = .rental ∧ (s.meter i).record = some record
  · rw [if_pos bound]
    exact if_pos bound
  · rw [if_neg bound]
    exact if_neg bound

/-- A commit's OK: its entry and the preview it bought leave their lists, its rental begins and PURCHASE is raised
(R114). -/
theorem State.commitOk_eq {c : Commit} (entry : s.commitOfRecord n = some c) :
    let seconds := (s.store.slot n).minutes.getD 0 * 60
    s.commitOk n = State.raise .purchase
      { s with
        meters := if (s.meter c.meter).hold = some c.programme
                  then s.meters.set c.meter (Meter.rental c.programme n seconds) else s.meters
        buying := { s.buying with
          commits := s.buying.commits.filter fun x => x.record != n
          previews := if c.kind = .fromPreview then s.buying.previews.filter fun p => p.programme != c.programme
                      else s.buying.previews
          rentals := s.buying.rentals ++ [{ programme := c.programme, record := n, meter := c.meter,
                                            endTime := heldTime (c.time + seconds), extension := .none }] } } := by
  unfold State.commitOk
  rw [entry]
  dsimp only
  rw [State.startRental_eq, State.dropBought_eq]
  rfl

theorem State.commitOk_none (absent : s.commitOfRecord n = none) : s.commitOk n = s := by
  unfold State.commitOk
  rw [absent]

/-- An extension's OK: the entry becomes WRITTEN and its meter takes the period (R121). -/
theorem State.extensionOk_eq {r : Rental} (minutes : Nat) (entry : s.rentalOfRecord n = some r)
    (requested : r.extension = .requested) : s.extensionOk n minutes =
      { s with
        meters := if (s.meter r.meter).use = .rental ∧ (s.meter r.meter).record = some n
                  then s.meters.set r.meter { s.meter r.meter with buffered := some (minutes * 60) } else s.meters
        buying := { s.buying with rentals := s.buying.rentals.map fun x =>
          if x.record = n then { x with extension := .written } else x } } := by
  unfold State.extensionOk
  rw [entry]
  dsimp only
  rw [if_pos requested, State.setBuffered_eq]
  rfl

theorem State.extensionOk_none (minutes : Nat)
    (unasked : ∀ r ∈ s.buying.rentals, r.record = n → r.extension ≠ .requested) : s.extensionOk n minutes = s := by
  unfold State.extensionOk
  cases entry : s.rentalOfRecord n with
  | none => rfl
  | some r =>
    have record : r.record = n := by simpa using List.find?_some entry
    exact if_neg (unasked r (List.mem_of_find?_eq_some entry) record)

/-- The commit entry of a record is the first that names it. -/
theorem State.commitOfRecord_eq {as bs : List Commit} {c : Commit} (commits : s.buying.commits = as ++ c :: bs)
    (record : c.record = n) (first : ∀ x ∈ as, x.record ≠ n) : s.commitOfRecord n = some c := by
  rw [State.commitOfRecord, commits, List.find?_append, List.find?_eq_none.2 (by simpa using first), Option.none_or]
  exact List.find?_cons_of_pos (by simpa using record)

theorem State.commitOfRecord_none (absent : ∀ c ∈ s.buying.commits, c.record ≠ n) : s.commitOfRecord n = none :=
  List.find?_eq_none.2 (by simpa using absent)

theorem State.rentalOfRecord_eq {as bs : List Rental} {r : Rental} (rentals : s.buying.rentals = as ++ r :: bs)
    (record : r.record = n) (first : ∀ x ∈ as, x.record ≠ n) : s.rentalOfRecord n = some r := by
  rw [State.rentalOfRecord, rentals, List.find?_append, List.find?_eq_none.2 (by simpa using first), Option.none_or]
  exact List.find?_cons_of_pos (by simpa using record)

variable {op : StoreOp}

/-- The OK of an operation that commits a record goes to its commit (R114). -/
theorem State.requesterOk_commits (commits : op.commitsRecord = some n) : s.requesterOk op = s.commitOk n := by
  match op, commits with
  | .append r, commits =>
    obtain ⟨c, commit, rfl⟩ := Option.map_eq_some_iff.1 commits
    exact if_pos (by rw [commit]; rfl)
  | .advance m (.committed _), commits => cases commits; rfl

/-- An OK that no commit and no extension waits for is told to nobody. -/
theorem State.requesterOk_unasked
    (uncommitted : ∀ n, op.commitsRecord = some n → ∀ c ∈ s.buying.commits, c.record ≠ n)
    (unextended : ∀ n m, op = .writeExtension n m →
      ∀ r ∈ s.buying.rentals, r.record = n → r.extension ≠ .requested) : s.requesterOk op = s := by
  match op with
  | .writeExtension n m => exact State.extensionOk_none m (unextended n m rfl)
  | .advance n (.committed _) => exact State.commitOk_none (State.commitOfRecord_none (uncommitted n rfl))
  | .append r =>
    cases commit : r.commit with
    | none => exact if_neg (by simp [commit])
    | some c =>
      have commits : (StoreOp.append r).commitsRecord = some r.number := by simp [StoreOp.commitsRecord, commit]
      rw [State.requesterOk_commits commits]
      exact State.commitOk_none (State.commitOfRecord_none (uncommitted _ commits))
  | .advance _ .previewed => rfl
  | .advanceRange _ _ => rfl
  | .writeSettings _ _ => rfl
  | .eraseSector _ => rfl
  | .closeMark => rfl

/-- The marking list and the standing settings are no business of the requester. -/
theorem State.requesterOk_beside (op : StoreOp) (s : State) :
    (s.requesterOk op).buying.marking = s.buying.marking ∧ (s.requesterOk op).standing = s.standing := by
  have commit (n : Nat) : (s.commitOk n).buying.marking = s.buying.marking ∧ (s.commitOk n).standing = s.standing := by
    cases entry : s.commitOfRecord n with
    | none => rw [State.commitOk_none entry]; exact ⟨rfl, rfl⟩
    | some c => rw [State.commitOk_eq entry]; exact ⟨rfl, rfl⟩
  match op with
  | .append r =>
    cases commits : r.commit with
    | none =>
      rw [State.requesterOk, if_neg (by simp [commits])]
      exact ⟨rfl, rfl⟩
    | some c =>
      rw [State.requesterOk_commits (n := r.number) (by simp [StoreOp.commitsRecord, commits])]
      exact commit _
  | .advance n (.committed _) => exact commit n
  | .writeExtension n m =>
    cases entry : s.rentalOfRecord n with
    | none =>
      rw [State.requesterOk, State.extensionOk, entry]
      exact ⟨rfl, rfl⟩
    | some r =>
      rw [State.requesterOk]
      by_cases requested : r.extension = .requested
      · rw [State.extensionOk_eq m entry requested]
        exact ⟨rfl, rfl⟩
      · rw [State.extensionOk, entry]
        dsimp only
        rw [if_neg requested]
        exact ⟨rfl, rfl⟩
  | .advance _ .previewed => exact ⟨rfl, rfl⟩
  | .advanceRange _ _ => exact ⟨rfl, rfl⟩
  | .writeSettings _ _ => exact ⟨rfl, rfl⟩
  | .eraseSector _ => exact ⟨rfl, rfl⟩
  | .closeMark => exact ⟨rfl, rfl⟩

end Requester

/-! ## What the queue does (R109, R129, R132, R140) -/

/-- What an operation takes at its start is read from the folio number and the standing settings (R136). -/
theorem begunQueue_congr {s t : State} (folio : t.store.folio = s.store.folio) (standing : t.standing = s.standing)
    (qs : List QueuedOp) : begunQueue t qs = begunQueue s qs := by
  have starts (op : StoreOp) : op.started t = op.started s := by
    cases op with
    | writeSettings ending values => simp only [StoreOp.started, folio, standing]
    | _ => rfl
  simp only [begunQueue, starts]

theorem State.proceed_startClose {s : State} {op : StoreOp} (shut : s.store.closing = true)
    (earlier : op.ofClose = false) : s.proceed op = s.startClose := if_pos (by simp [shut, earlier])

theorem State.proceed_startNext {s : State} (op : StoreOp) (opened : s.store.closing = false) :
    s.proceed op = s.startNext s.store.queue.length := if_neg (by simp [opened])

/-- A WRITE SETTINGS takes the folio number, the next one if it ends a close, and the settings in force (R136, R140). -/
theorem StoreOp.started_settings (s : State) (ending : Bool) (values : Option (Nat × Standing)) :
    (StoreOp.writeSettings ending values).started s = .writeSettings ending (some
      (if ending = true ∧ s.store.folio = 65535 then 1 else if ending = true then s.store.folio + 1
        else s.store.folio, s.standing)) := by
  cases ending <;> simp [StoreOp.started, nextFolio]

section Room

variable {s : State}

theorem FolioStore.accepts_iff (f : FolioStore) :
    f.accepts = true ↔ f.fault = false ∧ f.closing = false ∧ f.awaitingScan = false := by
  simp [FolioStore.accepts, FolioStore.closingTest]

/-- A store that accepts nothing takes no number (R130). -/
theorem State.fillRoom_refused (refused : s.store.accepts = false) : s.fillRoom = s := by
  have marking : s.takeMarking = s := by
    unfold State.takeMarking
    split <;> simp [refused]
  have scan : s.takeScanList = s := by
    unfold State.takeScanList
    split <;> simp [refused]
  rw [State.fillRoom, marking, scan]

/-- Numbers that join operations of which the first is no range that finds nothing bring none to the front. -/
theorem not_idle_joined {f g : FolioStore} (sectors : g.sectors = f.sectors) (folio : g.folio = f.folio)
    {waiting : List QueuedOp} (busy : ∀ x rest, waiting = x :: rest → ¬ IdleRange f x.op) (ns : List Nat) :
    ∀ x rest, waiting ++ ns.map advancing = x :: rest → ¬ IdleRange g x.op := by
  intro x rest queue
  cases waiting with
  | nil =>
    have member : x ∈ ns.map advancing := by
      rw [List.nil_append] at queue
      exact queue ▸ List.mem_cons_self
    obtain ⟨n, -, rfl⟩ := List.mem_map.1 member
    exact advancing_not_idle _ n
  | cons y ys =>
    cases queue
    rw [IdleRange.same sectors folio]
    exact busy _ _ rfl

variable (accepts : s.store.accepts = true) (room : s.store.queue.length < 8)
include accepts room

/-- The room filled, part by part. -/
theorem State.fillRoom_facts :
    let scanned := if s.store.queue.length < 7 ∨ s.buying.marking = [] then s.store.scanList.take 1 else []
    let t := s.fillRoom
    t.buying.marking = s.buying.marking.tail ∧ t.store.scanList = s.store.scanList.drop scanned.length
      ∧ t.store.queue = s.store.queue ++ (s.buying.marking.take 1 ++ scanned).map advancing
      ∧ t.store.sectors = s.store.sectors ∧ t.store.folio = s.store.folio ∧ t.store.accepts = true
      ∧ t.standing = s.standing := by
  dsimp only
  rw [s.fillRoom_eq accepts room]
  exact ⟨rfl, rfl, rfl, rfl, rfl, accepts, rfl⟩

theorem State.fillRoom_proceed (op : StoreOp) :
    s.fillRoom.proceed op = s.fillRoom.startNext s.fillRoom.store.queue.length := by
  obtain ⟨-, -, -, -, -, stillAccepts, -⟩ := State.fillRoom_facts accepts room
  obtain ⟨-, opened, -⟩ := (FolioStore.accepts_iff _).1 stillAccepts
  exact State.proceed_startNext op opened

/-- The room is taken by the two lists, and the operation at the head starts (R109, R129). -/
theorem State.fillRoom_proceed_busy (op : StoreOp)
    (busy : ∀ x rest, s.store.queue = x :: rest → ¬ IdleRange s.store x.op) :
    let scanned := if s.store.queue.length < 7 ∨ s.buying.marking = [] then s.store.scanList.take 1 else []
    let t := s.fillRoom.proceed op
    t.buying.marking = s.buying.marking.tail ∧ t.store.scanList = s.store.scanList.drop scanned.length
      ∧ t.store.queue = begunQueue s (s.store.queue ++ (s.buying.marking.take 1 ++ scanned).map advancing) := by
  intro scanned t
  obtain ⟨marking, scanList, queue, sectors, folio, -, standing⟩ := State.fillRoom_facts accepts room
  have next : t = s.fillRoom.startHead := (State.fillRoom_proceed accepts room op).trans
    (State.startNext_busy _ _ (queue ▸ not_idle_joined sectors folio busy _))
  obtain ⟨begun, unlisted, same⟩ := s.fillRoom.startHead_facts
  have unsold := congrArg State.buying same
  have buying : t.buying = s.fillRoom.buying := by
    rw [next]
    exact unsold
  rw [buying, next, begun, unlisted, queue, begunQueue_congr folio standing]
  exact ⟨marking, scanList, rfl⟩

/-- Where one of the two lists is empty, the room takes the oldest number of the other. -/
theorem State.fillRoom_oneList (oneList : s.buying.marking = [] ∨ s.store.scanList = []) :
    s.fillRoom.buying.marking = s.buying.marking.drop 1 ∧ s.fillRoom.store.scanList = s.store.scanList.drop 1
      ∧ s.fillRoom.store.queue
        = s.store.queue ++ ((s.buying.marking ++ s.store.scanList).take 1).map advancing := by
  obtain ⟨marking, scanList, queue, -⟩ := State.fillRoom_facts accepts room
  rw [marking, scanList, queue, List.drop_one, List.drop_one]
  rcases oneList with empty | empty
  · rw [if_pos (.inr empty), empty]
    cases s.store.scanList <;> exact ⟨rfl, rfl, rfl⟩
  · rw [empty]
    simp

/-- The ranges at the front that find nothing complete too, each leaving room for one number more (R132). -/
theorem State.fillRoom_proceed_idles (op : StoreOp) {idle others : List QueuedOp}
    (waiting : s.store.queue = idle ++ others) (idles : ∀ x ∈ idle, IdleRange s.store x.op)
    (busy : ∀ x rest, others = x :: rest → ¬ IdleRange s.store x.op)
    (oneList : s.buying.marking = [] ∨ s.store.scanList = []) :
    let t := s.fillRoom.proceed op
    t.buying.marking = s.buying.marking.drop (idle.length + 1)
      ∧ t.store.scanList = s.store.scanList.drop (idle.length + 1)
      ∧ t.store.queue = begunQueue s
          (others ++ ((s.buying.marking ++ s.store.scanList).take (idle.length + 1)).map advancing) := by
  obtain ⟨-, -, -, sectors, folio, stillAccepts, standing⟩ := State.fillRoom_facts accepts room
  obtain ⟨marking, scanList, queue⟩ := State.fillRoom_oneList accepts room oneList
  have ahead : s.fillRoom.store.queue
      = idle ++ (others ++ ((s.buying.marking ++ s.store.scanList).take 1).map advancing) := by
    rw [queue, waiting, List.append_assoc]
  have fits : s.fillRoom.store.queue.length ≤ 8 := by
    have one : ((s.buying.marking ++ s.store.scanList).take 1).length ≤ 1 := List.length_take_le _ _
    rw [queue, List.length_append, List.length_map]
    omega
  have onlyList : s.fillRoom.buying.marking = [] ∨ s.fillRoom.store.scanList = [] := by
    rw [marking, scanList]
    exact oneList.imp (fun empty => by rw [empty]; rfl) (fun empty => by rw [empty]; rfl)
  have rest : s.buying.marking.drop 1 ++ s.store.scanList.drop 1 = (s.buying.marking ++ s.store.scanList).drop 1 := by
    rcases oneList with empty | empty <;> simp [empty]
  have enough : idle.length ≤ s.fillRoom.store.queue.length := by
    rw [ahead, List.length_append]
    omega
  rw [State.fillRoom_proceed accepts room op]
  obtain ⟨-, left, listed, begun⟩ := State.startNext_idles idle _ s.fillRoom _ stillAccepts ahead fits
    (fun x hx => (IdleRange.same sectors folio _).2 (idles x hx)) (not_idle_joined sectors folio busy _) onlyList enough
  rw [marking, List.drop_drop] at left
  rw [scanList, List.drop_drop] at listed
  rw [marking, scanList, rest, List.append_assoc, ← List.map_append, ← List.take_add, begunQueue_congr folio standing,
    Nat.add_comm 1] at begun
  rw [Nat.add_comm] at left listed
  exact ⟨left, listed, begun⟩

end Room

/-! ## The completion -/

/-- s with the content of the operation in flight programmed and the operation gone from the queue, `rest` being what
waits behind it. -/
def State.completed (s : State) (op : StoreOp) (rest : List QueuedOp) : State :=
  { s with store := { s.store.programAll op with queue := rest } }

/-- Programming changes the sectors and the page alone. -/
theorem FolioStore.programAll_keeps (f : FolioStore) (op : StoreOp) :
    (f.programAll op).awaitingScan = f.awaitingScan ∧ (f.programAll op).closing = f.closing
      ∧ (f.programAll op).fault = f.fault ∧ (f.programAll op).folio = f.folio
      ∧ (f.programAll op).scanList = f.scanList := by
  have same := f.programAll_same op
  exact ⟨congrArg (·.awaitingScan) same, congrArg (·.closing) same, congrArg (·.fault) same, congrArg (·.folio) same,
    congrArg (·.scanList) same⟩

section Done

variable {s : State} {q : QueuedOp} {rest : List QueuedOp} (queue : s.store.queue = q :: rest)
include queue

theorem State.popOp_programmed (op : StoreOp) : (s.stored fun f => f.programAll op).popOp = s.completed op rest := by
  unfold State.stored State.popOp State.completed
  dsimp only
  rw [FolioStore.programAll_queue, queue]
  rfl

/-- While the store awaits its scan a completion changes the content alone (R144). -/
theorem State.opDone_awaiting (op : StoreOp) (awaits : s.store.awaitingScan = true) :
    s.opDone op = s.completed op rest := by
  unfold State.opDone
  dsimp only
  rw [State.popOp_programmed queue]
  exact if_pos ((s.store.programAll_keeps op).1.trans awaits)

/-- Else the requester is told OK, the room is filled and the queue goes on (R129). -/
theorem State.opDone_served {op : StoreOp} (scanned : s.store.awaitingScan = false) (ordinary : op.isEnding = false) :
    s.opDone op = State.finish (((s.completed op rest).requesterOk op).fillRoom.proceed op) := by
  have present : ¬ (s.completed op rest).store.awaitingScan = true := by
    rw [Bool.not_eq_true]
    exact (s.store.programAll_keeps op).1.trans scanned
  unfold State.opDone
  dsimp only
  rw [State.popOp_programmed queue, if_neg present, if_neg (by simp [ordinary])]

end Done

/-- Settles O55: what the requester does, then what the store's queue does, which changes nothing that the requester
wrote. -/
theorem completion_reaches_its_requester : Obligations.completion_reaches_its_requester := by
  intro s q rest awake queue finds op f marks asked begun started
  have done : exec (completionCommand op.kind .ok) s = .next (s.opDone op) :=
    (exec_completion op .ok awake).trans (congrArg _ (State.completion_ok queue finds))
  refine ⟨fun awaits => done.trans (congrArg _ (State.opDone_awaiting queue op awaits)), fun scanned ordinary => ?_⟩
  let v := s.completed op rest
  let w := v.requesterOk op
  let u := w.fillRoom.proceed op
  have outside : QueueOnly w u := (QueueOnly.fillRoom w).trans (QueueOnly.proceed op _)
  obtain ⟨buying, meters, reply⟩ := outside.kept s.buying.marking
  obtain ⟨sameScan, sameClosing, sameFault, sameFolio, sameList⟩ := s.store.programAll_keeps op
  obtain ⟨(marking : w.buying.marking = s.buying.marking), (standing : w.standing = s.standing)⟩ :=
    State.requesterOk_beside op v
  have store : w.store = { f with queue := rest } := by simp [w, v, State.completed, f]
  have waits : w.store.queue = rest := by rw [store]
  have listed : w.store.scanList = s.store.scanList := by rw [store]; exact sameList
  have number : w.store.folio = s.store.folio := by rw [store]; exact sameFolio
  have idle (x : QueuedOp) : IdleRange w.store x.op ↔ IdleRange f x.op := by
    rw [store]
    exact IdleRange.same rfl rfl _
  have accepts (opened : s.store.closing = false) (sound : s.store.fault = false) : w.store.accepts = true := by
    rw [FolioStore.accepts_iff, store]
    exact ⟨sameFault.trans sound, sameClosing.trans opened, sameScan.trans scanned⟩
  have begins (xs : List QueuedOp) : begunQueue w xs = started xs := by
    have takes (x : QueuedOp) : { x with op := x.op.started w } = begun x := by
      obtain ⟨o, retried, wrote⟩ := x
      cases o with
      | writeSettings ending values => rw [StoreOp.started_settings, number, standing]
      | _ => rfl
    exact congrArg (· ++ xs.tail) (List.map_congr_left fun x _ => takes x)
  refine ⟨u, u.finish, done.trans (congrArg _ (State.opDone_served queue scanned ordinary)), u.finish_redecided,
    fun n c as bs entry commits record first => ?_, fun n m as r bs writes rentals record first requested => ?_,
    fun uncommitted unextended => ?_, fun shut own last => ?_, fun opened sound room busy => ?_,
    fun ranges others opened sound room waiting idles busy oneList => ?_⟩
  · have told : w = _ := (State.requesterOk_commits entry).trans
      (State.commitOk_eq (s := v) (State.commitOfRecord_eq (s := v) commits record first))
    rw [told] at buying meters reply
    exact ⟨buying, meters, congrArg Reply.flags reply⟩
  · have told : w = _ := (congrArg v.requesterOk writes).trans
      (State.extensionOk_eq (s := v) m (State.rentalOfRecord_eq (s := v) rentals record first) requested)
    rw [told] at buying meters reply
    exact ⟨buying, meters, reply⟩
  · have told : w = v := State.requesterOk_unasked uncommitted unextended
    rw [told] at buying meters reply
    exact ⟨buying, meters, reply⟩
  · have closing : w.store.closing = true := by
      rw [store]
      exact sameClosing.trans shut
    have refused : w.store.accepts = false := by simp [FolioStore.accepts, FolioStore.closingTest, closing]
    have starts : u = w.startClose :=
      (congrArg (State.proceed op) (State.fillRoom_refused refused)).trans (State.proceed_startClose closing own)
    obtain ⟨-, same, ⟨page, unmarked, marked⟩⟩ := w.startClose_facts (by rw [store]; exact last)
    rw [← starts, store] at same
    rw [← starts, store] at page unmarked marked
    rw [standing] at marked
    exact ⟨(congrArg FolioStore.closing same).trans (sameClosing.trans shut),
      (congrArg FolioStore.fault same).trans sameFault, (congrArg FolioStore.folio same).trans sameFolio,
      page, unmarked, marked⟩
  · have goesOn := State.fillRoom_proceed_busy (accepts opened sound) (waits.symm ▸ room) op
      fun x more first => mt (idle x).1 (busy x more (waits.symm.trans first))
    dsimp only at goesOn
    rwa [begins, waits, marking, listed] at goesOn
  · have goesOn := State.fillRoom_proceed_idles (accepts opened sound) (waits.symm ▸ room) op (waits.trans waiting)
      (fun x hx => (idle x).2 (idles x hx)) (fun x more first => mt (idle x).1 (busy x more first))
      (by rwa [marking, listed])
    rwa [begins, marking, listed] at goesOn

end Sys2Proof.Machine
end

section
/-!
PROOF. EXTEND RENTAL and SETTLE (O48).
-/

namespace Sys2Proof.Machine

/-! ## The checks on the store that both make (R120, R193) -/

section ReadyCheck

variable {f : FolioStore}

/-- STATE while the store is FAULTED, FULL while its queue is full. -/
def FolioStore.readyCheck (f : FolioStore) : Option Reason :=
  if f.fault then some .state else if f.queueFull then some .full else none

theorem FolioStore.readyCheck_faulted (faulted : f.fault = true) : f.readyCheck = some .state := if_pos faulted

variable (sound : f.fault = false)
include sound

theorem FolioStore.readyCheck_full (full : 8 ≤ f.queue.length) : f.readyCheck = some .full :=
  (if_neg (by simp [sound])).trans (if_pos (decide_eq_true full))

theorem FolioStore.readyCheck_room (room : ¬ 8 ≤ f.queue.length) : f.readyCheck = none :=
  (if_neg (by simp [sound])).trans (if_neg (by simpa [FolioStore.queueFull] using room))

end ReadyCheck

/-! ## The checks of EXTEND RENTAL (R120) -/

section ExtendCheck

variable {s : State} {record minutes : Nat}

/-- A record number and a number of minutes that EXTEND RENTAL takes (R120 check 1). -/
abbrev ExtensionInRange (record minutes : Nat) : Prop := 1 ≤ record ∧ record ≤ 256 ∧ 1 ≤ minutes ∧ minutes ≤ 4320

theorem State.extendCheck_range (out : ¬ ExtensionInRange record minutes) :
    s.extendCheck record minutes = some .range := if_pos (by omega)

variable (inside : ExtensionInRange record minutes)
include inside

theorem State.extendCheck_busy (busy : s.store.closingTest = true) : s.extendCheck record minutes = some .busy :=
  (if_neg (by omega)).trans (if_pos busy)

variable (free : ¬ s.store.closingTest = true)
include free

/-- No rental of the record can be extended: none is held, or its extension is asked for or written. -/
theorem State.extendCheck_shut (shut : ∀ r ∈ s.buying.rentals, r.record = record → r.extension ≠ .none) :
    s.extendCheck record minutes = some .state := by
  refine (if_neg (by omega)).trans ((if_neg free).trans ?_)
  cases entry : s.rentalOfRecord record with
  | none => rfl
  | some r =>
    have named : r.record = record := by simpa using List.find?_some entry
    exact if_pos (shut r (List.mem_of_find?_eq_some entry) named)

/-- A rental of the record can be extended: what is left to check is the store. -/
theorem State.extendCheck_open (held : ∃ r ∈ s.buying.rentals, r.record = record)
    (unasked : ∀ r ∈ s.buying.rentals, r.record = record → r.extension = .none) :
    s.extendCheck record minutes = s.store.readyCheck := by
  refine (if_neg (by omega)).trans ((if_neg free).trans ?_)
  cases entry : s.rentalOfRecord record with
  | none =>
    obtain ⟨r, member, named⟩ := held
    exact absurd named (by simpa using List.find?_eq_none.1 entry r member)
  | some r =>
    have named : r.record = record := by simpa using List.find?_some entry
    exact if_neg (not_not.2 (unasked r (List.mem_of_find?_eq_some entry) named))

end ExtendCheck

/-! ## The checks of SETTLE (R193) -/

section SettleCheck

variable {s : State} {folio through : Nat}

/-- A folio number and a last record number that SETTLE takes (R193 check 1). -/
abbrev SettleInRange (folio through : Nat) : Prop := 1 ≤ folio ∧ folio ≤ 65535 ∧ 1 ≤ through ∧ through ≤ 256

theorem State.settleCheck_range (out : ¬ SettleInRange folio through) :
    s.settleCheck folio through = some .range := if_pos (by omega)

variable (inside : SettleInRange folio through)
include inside

theorem State.settleCheck_stale (other : folio ≠ s.store.folio) : s.settleCheck folio through = some .stale :=
  (if_neg (by omega)).trans (if_pos other)

/-- The checks that are left for the current folio are the store's. -/
theorem State.settleCheck_current (current : folio = s.store.folio) : s.settleCheck folio through =
    if s.store.closingTest then some .busy else s.store.readyCheck :=
  (if_neg (by omega)).trans (if_neg (not_not.2 current))

end SettleCheck

/-! ## O48 -/

/-- An operation that joins the end of the queue. -/
abbrev FolioStore.joined (f : FolioStore) (op : StoreOp) : FolioStore := { f with queue := f.queue ++ [op.queued] }

theorem State.push_range_idle {s : State} {t : RangeTarget} {ns : List Nat} (empty : s.store.queue = [])
    (idle : IdleRange s.store (.advanceRange t ns)) : s.push (.advanceRange t ns) = s :=
  (if_pos empty).trans (if_pos ((s.store.idleRange_iff _).2 idle))

theorem State.push_range_joins {s : State} {t : RangeTarget} {ns : List Nat}
    (waits : s.store.queue ≠ [] ∨ ¬ IdleRange s.store (.advanceRange t ns)) :
    s.push (.advanceRange t ns) = { s with store := s.store.joined (.advanceRange t ns) } :=
  State.push_plain _ s (by simp) (by simp) (waits.imp_right (by simp [← FolioStore.idleRange_iff]))

/-- Settles O48: the checks of R120 and of R193 in their orders, then how the operation joins the queue. -/
theorem extend_rental_and_settle : Obligations.extend_rental_and_settle := by
  intro s t record minutes folio through meant extend settle busy full inRange open_ shut asked joins valid
  obtain ⟨awake, here, -⟩ := meant
  have closing := s.store.closingTest_iff
  have extendRefused {r : Reason} (h : s.extendCheck record minutes = some r) :
      extend = .next (s.refuse .extendRental r) := State.act_refused awake here (by cases t <;> rfl) h
  have settleRefused {r : Reason} (h : s.settleCheck folio through = some r) :
      settle = .next (s.refuse .settle r) := State.act_refused awake here (by cases t <;> rfl) h
  have settleChecks (h : valid) (current : folio = s.store.folio) (free : ¬ busy) :
      s.settleCheck folio through = s.store.readyCheck :=
    (State.settleCheck_current h current).trans (if_neg (mt closing.1 free))
  refine ⟨fun out => extendRefused (State.extendCheck_range out),
    fun h shutting => extendRefused (State.extendCheck_busy h (closing.2 shutting)), fun h free refusal => ?_,
    fun h free opened sound noRoom => ?_, fun h free opened sound room => ?_,
    fun out => settleRefused (State.settleCheck_range out),
    fun h other => settleRefused (State.settleCheck_stale h other), fun h current shutting => ?_,
    fun h current free faulted => ?_, fun h current free sound noRoom => ?_, fun h current free sound room => ?_⟩
  · rcases refusal with taken | ⟨⟨held, unasked⟩, faulted⟩
    · exact extendRefused (State.extendCheck_shut h (mt closing.1 free) taken)
    · exact extendRefused ((State.extendCheck_open h (mt closing.1 free) held unasked).trans
        (FolioStore.readyCheck_faulted faulted))
  · obtain ⟨held, unasked⟩ := opened
    exact extendRefused ((State.extendCheck_open h (mt closing.1 free) held unasked).trans
      (FolioStore.readyCheck_full sound noRoom))
  · obtain ⟨held, unasked⟩ := opened
    have check := (State.extendCheck_open h (mt closing.1 free) held unasked).trans
      (FolioStore.readyCheck_room sound room)
    exact ⟨_, State.act_taken awake here (by cases t <;> rfl) check,
      State.redecided_of_finish (congrArg State.finish (State.push_extension record minutes _))⟩
  · exact settleRefused ((State.settleCheck_current h current).trans (if_pos (closing.2 shutting)))
  · exact settleRefused ((settleChecks h current free).trans (FolioStore.readyCheck_faulted faulted))
  · exact settleRefused ((settleChecks h current free).trans (FolioStore.readyCheck_full sound noRoom))
  · have check := (settleChecks h current free).trans (FolioStore.readyCheck_room sound room)
    exact ⟨_, State.act_taken awake here (by cases t <;> rfl) check,
      fun ⟨empty, idle⟩ => State.redecided_of_finish (congrArg State.finish (State.push_range_idle empty idle)),
      fun waits => State.redecided_of_finish (congrArg State.finish (State.push_range_joins waits))⟩

end Sys2Proof.Machine
end

section
/-!
PROOF. A completion FAIL (O56).
-/

namespace Sys2Proof.Machine

/-! ## What an operation finds (R131 to R134) -/

section Finds

variable {f : FolioStore} {q : QueuedOp}

theorem FolioStore.isPurchase_iff {n : Nat} : f.isPurchase n = true ↔
    (f.slot n).opened = true ∧ (f.slot n).folio = some f.folio ∧ (f.slot n).committed = true := by
  simp [FolioStore.isPurchase, Slot.isRecordOf, and_assoc]

/-- What bars an OK. -/
theorem FolioStore.contentFails_iff : f.contentFails q = true ↔
    (∃ n a, q.op = .advance n a ∧ ((f.slot n).opened = false ∨ a = .previewed ∧ (f.slot n).committed = true
        ∨ (∃ c, a = .committed c) ∧ (f.slot n).previewed = true))
      ∨ ∃ n m, q.op = .writeExtension n m ∧ (¬ ((f.slot n).opened = true
          ∧ (f.slot n).folio = some f.folio ∧ (f.slot n).committed = true)
        ∨ (f.slot n).extension ≠ none ∧ q.wrote = false) := by
  obtain ⟨op, retried, wrote⟩ := q
  cases op with
  | advance n a => cases a <;> simp [FolioStore.contentFails, AdvanceTarget.blocked]
  | writeExtension n m =>
    rw [FolioStore.contentFails, Bool.or_eq_true, Bool.not_eq_true', ← Bool.not_eq_true, FolioStore.isPurchase_iff]
    simp [Option.isSome_iff_ne_none]
  | _ => simp [FolioStore.contentFails]

/-- What an operation finds done. -/
theorem FolioStore.contentDone_iff (passes : f.contentFails q = false) : f.contentDone q.op = true ↔
    (∃ n a, q.op = .advance n a ∧ (a = .previewed ∧ (f.slot n).previewed = true
        ∨ (∃ c, a = .committed c) ∧ (f.slot n).committed = true)) ∨ IdleRange f q.op := by
  obtain ⟨op, retried, wrote⟩ := q
  cases op with
  | advance n a =>
    have found : a.blocked (f.slot n) = false := passes
    have noRange : ¬ IdleRange f (.advance n a) := by rintro ⟨_, _, range, -⟩; cases range
    cases a <;> simp [FolioStore.contentDone, AdvanceTarget.reached, found, noRange]
  | _ => simp [FolioStore.contentDone, FolioStore.idleRange_iff]

/-- An attempt that what it finds bars programs nothing. -/
theorem FolioStore.attempted_barred (bars : f.contentFails q = true) (k : Nat) : f.attempted q.op k = [] := by
  obtain ⟨op, retried, wrote⟩ := q
  cases op with
  | advance n a =>
    have blocked : a.blocked (f.slot n) = true := bars
    simp [FolioStore.attempted, opSteps, advanceSteps, blocked]
  | writeExtension n m =>
    have unwritten : (f.isPurchase n && (f.slot n).extension.isNone) = false := by
      cases extension : (f.slot n).extension with
      | none =>
        have unbought : f.isPurchase n = false := by simpa [FolioStore.contentFails, extension] using bars
        simp [unbought]
      | some _ => simp
    simp [FolioStore.attempted, opSteps, extensionSteps, unwritten]
  | _ => simp [FolioStore.contentFails] at bars

/-- An attempt at a WRITE EXTENSION writes its field if it makes a step and finds a purchase whose field is erased. -/
theorem FolioStore.extension_wrote_iff (n m k : Nat) : (!(f.attempted (.writeExtension n m) k).isEmpty) = true ↔
    0 < k ∧ (f.slot n).extension = none ∧ (f.slot n).opened = true ∧ (f.slot n).folio = some f.folio
      ∧ (f.slot n).committed = true := by
  have free_iff : (f.isPurchase n && (f.slot n).extension.isNone) = true ↔ (f.slot n).extension = none
      ∧ (f.slot n).opened = true ∧ (f.slot n).folio = some f.folio ∧ (f.slot n).committed = true := by
    rw [Bool.and_eq_true, FolioStore.isPurchase_iff, Option.isNone_iff_eq_none, and_comm]
  rw [← free_iff]
  by_cases free : (f.isPurchase n && (f.slot n).extension.isNone) = true
  · simp [FolioStore.attempted, opSteps, extensionSteps, free, Nat.pos_iff_ne_zero]
  · simp [FolioStore.attempted, opSteps, extensionSteps, free]

end Finds

/-! ## Who is told FAIL (R115, R121) -/

/-- The operations qs lose the commit of record n. -/
abbrev Loses (qs : List QueuedOp) (n : Nat) : Prop := ∃ x ∈ qs, x.op.commitsRecord = some n

/-- A rental entry after its extension has been lost with the operations qs (R121). -/
def Rental.unasked (qs : List QueuedOp) (r : Rental) : Rental :=
  if r.extension = .requested ∧ (qs.any fun x => x.op.extends r.record) = true then { r with extension := .none } else r

/-- t is s after those who asked for the operations qs have been told FAIL, in what they hold: the commits are dropped,
each with its meter and the preview it bought, and the extensions asked for are NONE again (R115, R121). -/
structure FailsTold (qs : List QueuedOp) (s t : State) : Prop where
  standing : t.standing = s.standing
  commits : ∀ c, c ∈ t.buying.commits ↔ c ∈ s.buying.commits ∧ ¬ Loses qs c.record
  previews : ∀ p ∈ t.buying.previews, p ∈ s.buying.previews
  bought : ∀ p ∈ s.buying.previews, p ∉ t.buying.previews →
    ∃ c ∈ s.buying.commits, Loses qs c.record ∧ c.kind = .fromPreview ∧ c.programme = p.programme
  freed : ∀ i, s.meter i = Meter.free → t.meter i = Meter.free
  rentals : t.buying.rentals = s.buying.rentals.map (Rental.unasked qs)

theorem Rental.unasked_nil (r : Rental) : r.unasked [] = r := if_neg (by simp)

theorem Rental.unasked_append (xs ys : List QueuedOp) (r : Rental) :
    (r.unasked xs).unasked ys = r.unasked (xs ++ ys) := by
  by_cases requested : r.extension = .requested
  · by_cases told : (xs.any fun x => x.op.extends r.record) = true
    · simp [Rental.unasked, requested, told]
    · simp [Rental.unasked, requested, told]
  · simp [Rental.unasked, requested]

namespace FailsTold

variable {s t u : State} {xs ys : List QueuedOp}

/-- Nobody is told anything by what leaves the purchase unit, the meters and the standing settings. -/
theorem nobody (buying : t.buying = s.buying) (meters : t.meters = s.meters) (standing : t.standing = s.standing) :
    FailsTold [] s t where
  standing := standing
  commits c := by simp [buying]
  previews p held := buying ▸ held
  bought p held dropped := absurd (buying ▸ held) dropped
  freed i free := (congrArg (fun ms : List Meter => ms.getD i Meter.free) meters).trans free
  rentals := by simp [buying, funext Rental.unasked_nil]

theorem trans (first : FailsTold xs s t) (second : FailsTold ys t u) : FailsTold (xs ++ ys) s u where
  standing := second.standing.trans first.standing
  commits c := by rw [second.commits, first.commits, and_assoc, ← not_or]; simp [Loses, or_and_right, exists_or]
  previews p held := first.previews p (second.previews p held)
  bought p held dropped := by
    by_cases kept : p ∈ t.buying.previews
    · obtain ⟨c, entry, ⟨x, member, commits⟩, kind⟩ := second.bought p kept dropped
      exact ⟨c, ((first.commits c).1 entry).1, ⟨x, List.mem_append_right xs member, commits⟩, kind⟩
    · obtain ⟨c, entry, ⟨x, member, commits⟩, kind⟩ := first.bought p held kept
      exact ⟨c, entry, ⟨x, List.mem_append_left ys member, commits⟩, kind⟩
  freed i free := second.freed i (first.freed i free)
  rentals := by
    rw [second.rentals, first.rentals, List.map_map]
    exact List.map_congr_left fun r _ => r.unasked_append xs ys

theorem then_nobody (told : FailsTold xs s t) (after : FailsTold [] t u) : FailsTold xs s u :=
  xs.append_nil ▸ told.trans after

end FailsTold

section Told

variable {s : State} {n : Nat} {op : StoreOp}

/-- A commit's FAIL: its entry and the preview it bought leave their lists, and its meter is released (R115). -/
theorem State.commitFails_eq {c : Commit} (entry : s.commitOfRecord n = some c) : s.commitFails n =
    { s with
      meters := if (s.meter c.meter).programme = some c.programme ∨ (s.meter c.meter).hold = some c.programme
                then s.meters.set c.meter Meter.free else s.meters
      buying := { s.buying with
        commits := s.buying.commits.filter fun x => x.record != n
        previews := if c.kind = .fromPreview then s.buying.previews.filter fun p => p.programme != c.programme
                    else s.buying.previews } } := by
  unfold State.commitFails
  rw [entry]
  dsimp only
  rw [State.releaseMeter_eq, State.dropBought_eq]
  rfl

/-- A FAIL of an operation that commits a record goes to its commit (R115). -/
theorem State.requesterFail_commits (commits : op.commitsRecord = some n) : s.requesterFail op = s.commitFails n := by
  match op, commits with
  | .append r, commits =>
    obtain ⟨c, commit, rfl⟩ := Option.map_eq_some_iff.1 commits
    exact if_pos (by rw [commit]; rfl)
  | .advance m (.committed _), commits => cases commits; rfl

/-- A FAIL of an operation that commits no record and writes no extension is told to nobody. -/
theorem State.requesterFail_unasked (uncommitted : op.commitsRecord = none)
    (unextended : ∀ n m, op ≠ .writeExtension n m) : s.requesterFail op = s := by
  match op with
  | .writeExtension n m => exact absurd rfl (unextended n m)
  | .append r => exact if_neg (by simpa [StoreOp.commitsRecord] using uncommitted)
  | .advance _ .previewed => rfl
  | .advanceRange _ _ => rfl
  | .writeSettings _ _ => rfl
  | .eraseSector _ => rfl
  | .closeMark => rfl

/-- An operation that commits a record writes no extension. -/
theorem StoreOp.extends_of_commits (commits : op.commitsRecord = some n) (m : Nat) : op.extends m = false := by
  match op, commits with
  | .append _, _ => rfl
  | .advance _ (.committed _), _ => rfl

/-- A FREE meter stays FREE where one is released. -/
theorem State.meter_free_of_release (p : Prop) [Decidable p] (i j : Nat) (free : s.meter i = Meter.free) :
    (if p then s.meters.set j Meter.free else s.meters).getD i Meter.free = Meter.free := by
  have still : s.meters[i]?.getD Meter.free = Meter.free := by simpa [State.meter] using free
  split
  · simp only [List.getD_eq_getElem?_getD, List.getElem?_set]
    split
    · split <;> rfl
    · exact still
  · simpa using still

variable {q : QueuedOp}

/-- An operation that writes no extension leaves the rentals as they are. -/
theorem Rental.map_unasked (unextended : ∀ n, q.op.extends n = false) (rs : List Rental) :
    rs.map (Rental.unasked [q]) = rs := by
  have same (r : Rental) : r.unasked [q] = r := if_neg (by simp [unextended])
  rw [funext same]
  exact List.map_id _

/-- An operation that nobody waits for. -/
theorem FailsTold.silent (uncommitted : ∀ c ∈ s.buying.commits, q.op.commitsRecord ≠ some c.record)
    (unextended : ∀ n, q.op.extends n = false) : FailsTold [q] s s where
  standing := rfl
  commits c := by simpa [Loses] using uncommitted c
  previews _ held := held
  bought _ held dropped := absurd held dropped
  freed _ free := free
  rentals := (Rental.map_unasked unextended _).symm

/-- A commit's entry is dropped, with its meter and the preview it bought. -/
theorem FailsTold.commit {c : Commit} (commits : q.op.commitsRecord = some n)
    (entry : s.commitOfRecord n = some c) : FailsTold [q] s (s.commitFails n) := by
  have named : c.record = n := by simpa using List.find?_some entry
  rw [State.commitFails_eq entry]
  refine ⟨rfl, fun x => ?_, fun p held => ?_, fun p held dropped => ?_,
    fun i free => State.meter_free_of_release _ i _ free, (Rental.map_unasked (StoreOp.extends_of_commits commits) _).symm⟩
  · simp [Loses, commits, @eq_comm _ n]
  · dsimp only at held
    split at held
    · exact List.mem_of_mem_filter held
    · exact held
  · refine ⟨c, List.mem_of_find?_eq_some entry, ⟨q, List.mem_singleton_self q, named.symm ▸ commits⟩, ?_⟩
    dsimp only at dropped
    split at dropped
    · next kind =>
      have same : p.programme = c.programme := by simpa [held] using dropped
      exact ⟨kind, same.symm⟩
    · exact absurd held dropped

/-- An extension asked for is NONE again. -/
theorem FailsTold.extension {m : Nat} (writes : q.op = .writeExtension n m) :
    FailsTold [q] s (s.extensionFails n) where
  standing := rfl
  commits c := by simp [Loses, writes, StoreOp.commitsRecord, State.extensionFails, State.onRental]
  previews _ held := held
  bought _ held dropped := absurd held dropped
  freed _ free := free
  rentals := by
    refine List.map_congr_left fun r _ => ?_
    by_cases named : r.record = n
    · by_cases requested : r.extension = .requested
      · simp [Rental.unasked, writes, StoreOp.extends, named, requested]
      · simp [Rental.unasked, named, requested]
    · have other : ¬ n = r.record := fun h => named h.symm
      simp [Rental.unasked, writes, StoreOp.extends, named, other]

/-- The FAIL of one operation. -/
theorem FailsTold.single (q : QueuedOp) (s : State) : FailsTold [q] s (s.requesterFail q.op) := by
  cases commits : q.op.commitsRecord with
  | some n =>
    rw [State.requesterFail_commits commits]
    cases entry : s.commitOfRecord n with
    | none =>
      have nothing : s.commitFails n = s := by rw [State.commitFails, entry]
      rw [nothing]
      refine FailsTold.silent (fun c held same => ?_) (StoreOp.extends_of_commits commits)
      have named : n = c.record := Option.some.inj (commits.symm.trans same)
      exact absurd named.symm (by simpa using List.find?_eq_none.1 entry c held)
    | some c => exact FailsTold.commit commits entry
  | none =>
    by_cases writes : ∃ n m, q.op = .writeExtension n m
    · obtain ⟨n, m, writes⟩ := writes
      rw [writes]
      exact FailsTold.extension writes
    · have unextended (n m : Nat) : q.op ≠ .writeExtension n m := fun h => writes ⟨n, m, h⟩
      rw [State.requesterFail_unasked commits unextended]
      refine FailsTold.silent (by simp [commits]) fun n => ?_
      cases op : q.op with
      | writeExtension n m => exact absurd op (unextended n m)
      | _ => rfl

/-- The first entry of the commit that the operation loses: its meter is free, and no preview it bought is left. -/
theorem State.requesterFail_releases {c : Commit} (commits : op.commitsRecord = some n)
    (entry : s.commitOfRecord n = some c) :
    ((s.meter c.meter).programme = some c.programme ∨ (s.meter c.meter).hold = some c.programme →
      (s.requesterFail op).meter c.meter = Meter.free)
      ∧ (c.kind = .fromPreview → ∀ p ∈ (s.requesterFail op).buying.previews, p.programme ≠ c.programme) := by
  rw [State.requesterFail_commits commits, State.commitFails_eq entry]
  refine ⟨fun bound => ?_, fun kind p held => ?_⟩
  · refine (congrArg (fun ms : List Meter => ms.getD c.meter Meter.free) (if_pos bound)).trans ?_
    by_cases inside : c.meter < s.meters.length <;> simp [inside]
  · have left := (List.mem_filter.1 (if_pos kind ▸ held :)).2
    simpa only [bne_iff_ne] using left

/-- The FAILs of operations one after another. -/
theorem FailsTold.each (qs : List QueuedOp) (s : State) :
    let t := qs.foldl (fun s q => s.requesterFail q.op) s
    FailsTold qs s t ∧ t.store = s.store ∧ t.reply = s.reply := by
  induction qs generalizing s with
  | nil => exact ⟨FailsTold.nobody rfl rfl rfl, rfl, rfl⟩
  | cons q qs ih =>
    obtain ⟨told, store, reply⟩ := ih (s.requesterFail q.op)
    exact ⟨(FailsTold.single q s).trans told, store.trans (by simp), reply.trans (by simp)⟩

theorem FailsTold.dropWaiting (s : State) : FailsTold s.store.queue s s.dropWaiting
    ∧ s.dropWaiting.store = { s.store with queue := [] } ∧ s.dropWaiting.reply = s.reply := by
  obtain ⟨told, store, reply⟩ := FailsTold.each s.store.queue { s with store := { s.store with queue := [] } }
  have emptied : FailsTold [] s { s with store := { s.store with queue := [] } } := FailsTold.nobody rfl rfl rfl
  exact ⟨emptied.trans told, store, reply⟩

end Told

/-! ## The failed attempt (R134) -/

theorem FolioStore.programSteps_keeps (f : FolioStore) (op : StoreOp) (k : Nat) :
    (f.programSteps op k).awaitingScan = f.awaitingScan ∧ (f.programSteps op k).closing = f.closing := by
  have same := f.programSteps_same op k
  exact ⟨congrArg (·.awaitingScan) same, congrArg (·.closing) same⟩

/-- s with what an attempt at q has programmed, and q at its second attempt before what waits behind it. -/
def State.retrying (s : State) (q : QueuedOp) (k : Nat) (rest : List QueuedOp) : State :=
  { s with store := { s.store.programSteps q.op k with
      queue := { q with retried := true, wrote := !(s.store.attempted q.op k).isEmpty } :: rest } }

/-- s with what an attempt at op has programmed, op gone from the queue and STORE_ERROR raised, `rest` being what waits
behind it. -/
def State.attemptFailed (s : State) (op : StoreOp) (k : Nat) (rest : List QueuedOp) : State :=
  State.raise .storeError { s with store := { s.store.programSteps op k with queue := rest } }

/-- The store is FAULTED; a close goes on unless the operation was its own (R134, R140). -/
def State.faulted (op : StoreOp) (s : State) : State :=
  s.stored fun f => { f with fault := true, closing := f.closing && !op.ofClose }

/-- A close that goes on queues its own operations. -/
def State.goOnClosing (s : State) : State := if s.store.closing then s.startClose else s

section Fails

variable {s : State} {q : QueuedOp} {rest : List QueuedOp} {k : Nat}

/-- Of the number of steps, a FAIL reads the steps it stands for. -/
theorem State.opFails_congr {j : Nat} (same : s.store.attempted q.op j = s.store.attempted q.op k) :
    s.opFails q j = s.opFails q k := by
  have steps : s.store.programSteps q.op j = s.store.programSteps q.op k := by
    rw [FolioStore.programSteps, same, FolioStore.programSteps]
  unfold State.opFails State.opFailed State.opRetried State.stored
  dsimp only
  rw [steps, same]

/-- A FAIL is a FAIL of its steps whether it was commanded or barred by what the operation finds. -/
theorem State.completion_fails (queue : s.store.queue = q :: rest)
    (undone : s.store.contentFails q = true ∨ s.store.contentDone q.op = false) :
    State.completion q.op.kind (.fail k) s = s.opFails q k := by
  by_cases bars : s.store.contentFails q = true
  · refine (State.completion_barred _ queue bars).trans (State.opFails_congr ?_)
    rw [FolioStore.attempted_barred bars, FolioStore.attempted_barred bars]
  · have undone : s.store.contentDone q.op = false := undone.resolve_left bars
    rw [State.completion_fail k queue (Bool.eq_false_of_not_eq_true bars), undone]
    rfl

variable (queue : s.store.queue = q :: rest)
include queue

theorem State.opFails_first (first : q.retried = false) : s.opFails q k =
    if (s.retrying q k rest).store.idleRange q.op then (s.retrying q k rest).opDone q.op else s.retrying q k rest := by
  have again : s.opFails q k = s.opRetried q k := if_neg (by simp [first])
  rw [again]
  unfold State.opRetried State.stored State.retrying
  simp only [queue, List.drop_one, List.tail_cons]

theorem State.popOp_attempted (op : StoreOp) :
    State.raise .storeError (s.stored fun f => f.programSteps op k).popOp = s.attemptFailed op k rest := by
  unfold State.stored State.popOp State.attemptFailed
  dsimp only
  rw [FolioStore.programSteps_queue, queue]
  rfl

/-- While the store awaits its scan a final FAIL raises STORE_ERROR and no more (R144). -/
theorem State.opFailed_awaiting (op : StoreOp) (awaits : s.store.awaitingScan = true) :
    s.opFailed op k = s.attemptFailed op k rest := by
  unfold State.opFailed
  dsimp only
  rw [State.popOp_attempted queue]
  exact if_pos ((s.store.programSteps_keeps op k).1.trans awaits)

/-- Else everyone whose operation is lost is told FAIL, the store is FAULTED, and a close goes on (R134, R140). -/
theorem State.opFailed_served (op : StoreOp) (scanned : s.store.awaitingScan = false) :
    s.opFailed op k =
      State.finish (((s.attemptFailed op k rest).requesterFail op).dropWaiting.faulted op).goOnClosing := by
  have present : ¬ (s.attemptFailed op k rest).store.awaitingScan = true := by
    rw [Bool.not_eq_true]
    exact (s.store.programSteps_keeps op k).1.trans scanned
  unfold State.opFailed
  dsimp only
  rw [State.popOp_attempted queue, if_neg present]
  rfl

end Fails

/-- What a final FAIL leaves of a store before a close goes on: an empty queue, FAULTED, those behind told. -/
theorem State.faulted_facts (s : State) (op : StoreOp) (k : Nat) (rest : List QueuedOp) :
    let f := s.store.programSteps op k
    let w := (s.attemptFailed op k rest).requesterFail op
    let x := w.dropWaiting.faulted op
    FailsTold rest w x ∧ x.reply = (s.attemptFailed op k rest).reply
      ∧ x.store = { f with queue := [], fault := true, closing := f.closing && !op.ofClose } := by
  intro f w x
  have kept : w.store = (s.attemptFailed op k rest).store := by simp [w]
  have said : w.reply = (s.attemptFailed op k rest).reply := by simp [w]
  obtain ⟨told, store, reply⟩ := FailsTold.dropWaiting w
  have behind : w.store.queue = rest := congrArg FolioStore.queue kept
  rw [behind] at told
  rw [kept] at store
  refine ⟨told.then_nobody (FailsTold.nobody rfl rfl rfl), reply.trans said, ?_⟩
  show { w.dropWaiting.store with fault := true, closing := w.dropWaiting.store.closing && !op.ofClose } = _
  rw [store]
  rfl

/-- What a close that goes on leaves of a FAULTED store with an empty queue. -/
theorem State.goOnClosing_facts (s : State) (empty : s.store.queue = []) :
    FailsTold [] s s.goOnClosing ∧ s.goOnClosing.reply = s.reply ∧ s.goOnClosing.store.fault = s.store.fault
      ∧ s.goOnClosing.store.closing = s.store.closing ∧ (s.store.closing = false → s.goOnClosing = s)
      ∧ (s.store.closing = true → CloseBegun s.store s.standing s.goOnClosing.store) := by
  by_cases closing : s.store.closing = true
  · have starts : s.goOnClosing = s.startClose := if_pos closing
    obtain ⟨same, store, begun⟩ := s.startClose_facts empty
    have buying := congrArg State.buying same
    have meters := congrArg State.meters same
    have standing := congrArg State.standing same
    have reply := congrArg State.reply same
    have fault := congrArg FolioStore.fault store
    have closes := congrArg FolioStore.closing store
    rw [starts]
    exact ⟨FailsTold.nobody buying meters standing, reply, fault, closes, fun shut => absurd closing (by simp [shut]),
      fun _ => begun⟩
  · have stays : s.goOnClosing = s := if_neg closing
    rw [stays]
    exact ⟨FailsTold.nobody rfl rfl rfl, rfl, rfl, rfl, fun _ => rfl, fun closes => absurd closes closing⟩

/-! ## O56 -/

/-- Settles O56: what the operation finds decides first; a FAIL it does not decide is retried (R134), and at its second
attempt is told to all whose operations are lost, which `FailsTold` says, before the store is FAULTED. -/
theorem failed_operation_is_retried_then_faults : Obligations.failed_operation_is_retried_then_faults := by
  intro s q rest programmed awake queue op completes fails bars done f wrote again lost
  have barred : s.store.contentFails q = true ↔ bars := FolioStore.contentFails_iff
  have finishes (unbarred : ¬ bars) : s.store.contentDone q.op = true ↔ _ :=
    FolioStore.contentDone_iff (Bool.eq_false_of_not_eq_true (mt barred.1 unbarred))
  have exec_completes (r : OpResult) : completes r = .next (State.completion op.kind r s) := exec_completion op r awake
  have failing (undone : ¬ done) : fails = .next (s.opFails q programmed) := by
    refine (exec_completes _).trans (congrArg _ (State.completion_fails queue ?_))
    by_cases h : bars
    · exact .inl (barred.2 h)
    · exact .inr (Bool.eq_false_of_not_eq_true fun found => undone ⟨h, (finishes h).1 found⟩)
  have idle : again.store.idleRange op = true ↔ IdleRange f op :=
    (again.store.idleRange_iff op).trans (IdleRange.same rfl rfl op)
  have final (retried : q.retried = true) : s.opFails q programmed = s.opFailed op programmed := if_pos retried
  refine ⟨fun ⟨_, _, _, _, _, _, _, _, whole⟩ => s.store.programSteps_leaves whole op programmed, fun h r => ?_,
    fun ⟨unbarred, found⟩ => ?_, fun n m writes => ?_, fun undone first busy => ?_, fun undone first empty => ?_,
    fun undone second awaits => ?_, fun undone second scanned => ?_⟩
  · show completes r = completes _
    rw [exec_completes, exec_completes, State.completion_barred _ queue (barred.2 h),
      State.completion_barred _ queue (barred.2 h)]
  · have passes := Bool.eq_false_of_not_eq_true (mt barred.1 unbarred)
    show completes _ = completes _
    rw [exec_completes, exec_completes, State.completion_ok queue passes, State.completion_fail _ queue passes,
      if_pos ((finishes unbarred).2 found)]
  · show (!(s.store.attempted q.op programmed).isEmpty) = true ↔ _
    rw [show q.op = _ from writes]
    exact s.store.extension_wrote_iff n m programmed
  · exact (failing undone).trans (congrArg _ ((State.opFails_first queue first).trans (if_neg (mt idle.1 busy))))
  · have passes : again.store.contentFails { q with retried := true, wrote := wrote } = false := by
      obtain ⟨t, ns, range, -⟩ := empty
      simp [FolioStore.contentFails, show q.op = _ from range]
    rw [failing undone, exec_completion (s := again) op .ok awake]
    refine congrArg _ ((State.opFails_first queue first).trans ((if_pos (idle.2 empty)).trans ?_))
    exact (State.completion_ok (s := again) rfl passes).symm
  · exact (failing undone).trans (congrArg _ ((final second).trans (State.opFailed_awaiting queue op awaits)))
  · let a := s.attemptFailed op programmed rest
    let t := a.requesterFail op
    let x := t.dropWaiting.faulted op
    let u := x.goOnClosing
    obtain ⟨toldRest, (reply : x.reply = a.reply), (store : x.store = _)⟩ := s.faulted_facts op programmed rest
    obtain ⟨nobody, said, fault, closing, stays, goesOn⟩ := x.goOnClosing_facts (congrArg FolioStore.queue store)
    have after : FailsTold rest t u := toldRest.then_nobody nobody
    have before : FailsTold [] s a := FailsTold.nobody rfl rfl rfl
    have told : FailsTold (q :: rest) s u := before.trans ((FailsTold.single q a).trans after)
    have shuts : x.store.closing = (s.store.closing && !op.ofClose) :=
      (congrArg FolioStore.closing store).trans (congrArg (· && !op.ofClose) (s.store.programSteps_keeps op _).2)
    refine ⟨u, u.finish, (failing undone).trans (congrArg _ ((final second).trans
      (State.opFailed_served queue op scanned))), u.finish_redecided, fault.trans (congrArg FolioStore.fault store),
      congrArg Reply.flags (said.trans reply), closing.trans shuts, fun ends => ?_, fun shut earlier => ?_,
      told.commits, told.previews, told.bought, fun n c as bs commits entries record first => ?_, told.rentals⟩
    · have ended : u = x := stays (shuts.trans (by rcases ends with opened | own <;> [simp [opened]; simp [own]]))
      rw [ended, store]
      exact ⟨rfl, rfl, rfl⟩
    · obtain ⟨page, unmarked, marked⟩ := goesOn (shuts.trans (by simp [shut, earlier]))
      have standing : x.standing = s.standing :=
        (before.trans ((FailsTold.single q a).trans toldRest)).standing
      rw [store] at page unmarked marked
      rw [standing] at marked
      exact ⟨page, unmarked, marked⟩
    · obtain ⟨free, unbought⟩ := State.requesterFail_releases (s := a) commits
        (State.commitOfRecord_eq (s := a) entries record first)
      exact ⟨fun bound => after.freed _ (free bound),
        fun kind p held => unbought kind p (after.previews p held)⟩

end Sys2Proof.Machine
end

section
/-!
SUPPORT. What leaves the stored content alone: every shared operation that programs nothing and starts no erase.
-/

namespace Sys2Proof.Machine

/-! ## The relation -/

/-- The sectors and the page of f stand in g, and no ERASE SECTOR has joined the queue. -/
structure ContentStands (f g : FolioStore) : Prop where
  sectors : g.sectors = f.sectors
  page : g.page = f.page
  erases : ∀ q ∈ g.queue, q.op.kind = .eraseSector → q ∈ f.queue

namespace ContentStands

theorem refl (f : FolioStore) : ContentStands f f := ⟨rfl, rfl, fun _ h _ => h⟩

theorem of_eq {f g : FolioStore} (h : g = f) : ContentStands f g := h ▸ refl f

theorem trans {f g h : FolioStore} (first : ContentStands f g) (next : ContentStands g h) : ContentStands f h :=
  ⟨next.sectors.trans first.sectors, next.page.trans first.page,
    fun q member erases => first.erases q (next.erases q member erases) erases⟩

/-- Steps one after another, each of which leaves the content alone. -/
theorem foldl {α : Type} {g : State → α → State} (step : ∀ s a, ContentStands s.store (g s a).store) (as : List α)
    (s : State) : ContentStands s.store (as.foldl g s).store := by
  induction as generalizing s with
  | nil => exact refl _
  | cons a as ih => exact (step s a).trans (ih (g s a))

end ContentStands

/-! ## The queue -/

/-- An operation that is no ERASE SECTOR joins the queue, and may start (R129, R132). -/
theorem State.push_stands {op : StoreOp} (keeps : op.kind ≠ .eraseSector) (s : State) :
    ContentStands s.store (s.push op).store := by
  by_cases empty : s.store.queue = []
  · by_cases idle : s.store.idleRange op = true
    · rw [State.push, if_pos empty, if_pos idle]
      exact .refl _
    · have starts := s.pushAll_starts op [] empty (Bool.eq_false_of_not_eq_true idle)
      have pushed : s.push op = s.pushAll [op] := rfl
      rw [pushed, starts]
      cases op with
      | eraseSector k => exact absurd rfl keeps
      | _ => exact ⟨rfl, rfl, by simp [StoreOp.started, StoreOp.kind]⟩
  · rw [State.push, if_neg empty]
    refine ⟨rfl, rfl, fun q member erases => (List.mem_append.1 member).resolve_right fun joined => keeps ?_⟩
    rw [List.mem_singleton.1 joined] at erases
    exact erases

theorem State.pushAll_stands {ops : List StoreOp} (keep : ∀ op ∈ ops, op.kind ≠ .eraseSector) (s : State) :
    ContentStands s.store (s.pushAll ops).store := by
  induction ops generalizing s with
  | nil => exact .refl _
  | cons op ops ih =>
    rw [State.pushAll_cons]
    exact (s.push_stands (keep op List.mem_cons_self)).trans
      (ih (fun o member => keep o (List.mem_cons_of_mem _ member)) _)

theorem State.requestSettings_stands (s : State) : ContentStands s.store s.requestSettings.store := by
  unfold State.requestSettings
  split
  · exact .refl _
  · split
    · exact s.push_stands (by simp [StoreOp.kind])
    · exact .refl _

theorem State.requestRange_stands (t : RangeTarget) (ns : List Nat) (s : State) :
    ContentStands s.store (s.requestRange t ns).store := by
  unfold State.requestRange
  split
  · exact s.push_stands (by simp [StoreOp.kind])
  · exact .refl _

theorem State.takeMarking_stands (s : State) : ContentStands s.store s.takeMarking.store := by
  unfold State.takeMarking
  split
  · exact .refl _
  · next n rest _ =>
    split
    · exact State.push_stands (op := .advance n .previewed) (by simp [StoreOp.kind])
        { s with buying := { s.buying with marking := rest } }
    · exact .refl _

theorem State.takeScanList_stands (s : State) : ContentStands s.store s.takeScanList.store := by
  unfold State.takeScanList
  split
  · exact .refl _
  · next n rest _ =>
    split
    · exact ContentStands.trans (g := { s.store with scanList := rest }) ⟨rfl, rfl, fun _ member _ => member⟩
        (State.push_stands (by simp [StoreOp.kind]) { s with store := { s.store with scanList := rest } })
    · exact .refl _

theorem State.fillRoom_stands (s : State) : ContentStands s.store s.fillRoom.store :=
  s.takeMarking_stands.trans (State.takeScanList_stands _)

theorem State.markPreviewed_stands (n : Nat) (s : State) : ContentStands s.store (s.markPreviewed n).store := by
  unfold State.markPreviewed
  split
  · split
    · exact .refl _
    · exact s.push_stands (by simp [StoreOp.kind])
  · exact .refl _

/-! ## Previews and the view decision -/

theorem State.beginPreview_stands (n : Nat) (p : Programme) (s : State) :
    ContentStands s.store (s.beginPreview n p).store := by
  unfold State.beginPreview
  split
  · exact .refl _
  · exact ContentStands.trans (g := s.takeRecordNumber.store) ⟨rfl, rfl, fun _ member _ => member⟩
      (State.push_stands (by simp [StoreOp.kind]) _)

theorem State.askedPreview_stands (e : ChannelEntry) (s : State) :
    ContentStands s.store (s.askedPreview e).store := by
  unfold State.askedPreview
  split
  · exact s.beginPreview_stands _ _
  · exact .refl _

theorem State.redecide_stands (s : State) : ContentStands s.store s.redecide.store := by
  unfold State.redecide
  split
  · exact .refl _
  · next e _ => simpa using s.askedPreview_stands e

theorem State.finish_stands (s : State) : ContentStands s.store s.finish.store := by
  simpa [State.finish] using s.redecide_stands

/-- A command's own effect that leaves the content alone, ended. -/
theorem ContentStands.finish {f : FolioStore} {t : State} (h : ContentStands f t.store) :
    ContentStands f t.finish.store := h.trans t.finish_stands

theorem State.tune_stands (n : Nat) (s : State) : ContentStands s.store (s.tune n).store := by
  unfold State.tune
  split
  · exact .refl _
  · next e _ =>
    simp only [State.followOutput_keeps, State.endStaleUnlock_keeps]
    refine ContentStands.trans (.of_eq ?_) (State.askedPreview_stands e _)
    split <;> simp

theorem State.endPreview_stands (p : Preview) (s : State) : ContentStands s.store (s.endPreview p).store := by
  simpa [State.endPreview] using
    State.markPreviewed_stands p.record ((s.releaseMeter p.meter p.programme).dropPreview p.programme)

theorem State.programmeChanged_stands (n : Nat) (s : State) : ContentStands s.store (s.programmeChanged n).store := by
  have ended := ContentStands.foldl (fun s p => s.endPreview_stands p)
    (s.buying.previews.filter fun p => p.channel == n && p.state == .running) s
  unfold State.programmeChanged
  dsimp only
  split
  · split <;> simpa using ended
  · exact ended

end Sys2Proof.Machine
end

section
/-!
SUPPORT. What leaves the stored content alone, command by command: beacons and notices, the local second, the output
slot, the guest keypad, and every management command but CLOSE FOLIO.
-/

namespace Sys2Proof.Machine

/-! ## Notices, hotel time and rentals -/

theorem State.setRecords_stands (i n : Nat) (e : NoticeEntry) (s : State) :
    ContentStands s.store (State.setRecords i n e s).store := by
  unfold State.setRecords
  refine ContentStands.finish ?_
  split
  · exact .refl _
  · exact State.programmeChanged_stands n (s.setNotice i e)

theorem State.notice_stands (code : Nat) (f : NoticeFields) (s : State) :
    ContentStands s.store (State.notice code f s).store := by
  unfold State.notice
  dsimp only
  split
  · exact .refl _
  · split
    · exact .refl _
    · split
      · exact .refl _
      · split
        · exact s.setRecords_stands _ _ _
        · exact .refl _

theorem State.restoreRental_stands (hotel : Nat) (s : State) (x : Slot × Nat) :
    ContentStands s.store (State.restoreRental hotel s x).store := by
  unfold State.restoreRental
  split <;> exact .refl _

theorem State.restoreRentals_stands (s : State) : ContentStands s.store s.restoreRentals.store := by
  unfold State.restoreRentals
  split
  · exact .refl _
  · split
    · exact .refl _
    · exact ContentStands.foldl (State.restoreRental_stands _) _ s

theorem State.handRestoration_stands (s : State) : ContentStands s.store s.handRestoration.store := by
  unfold State.handRestoration
  split
  · exact ⟨rfl, rfl, fun _ member _ => member⟩
  · exact s.restoreRentals_stands

theorem State.beacon_stands (t : Nat) (s : State) : ContentStands s.store (State.beacon t s).store := by
  unfold State.beacon
  refine ContentStands.finish ?_
  split
  · exact State.handRestoration_stands
      { s with notices := { s.notices with hotelTime := some t, restorationPending := false } }
  · exact .refl _

/-! ## The local second and its events -/

theorem State.selectChannel_stands (n : Nat) (s : State) : ContentStands s.store (s.selectChannel n).store := by
  unfold State.selectChannel
  split
  · exact .refl _
  · exact s.tune_stands n

theorem State.completeEntry_stands (s : State) : ContentStands s.store s.completeEntry.store :=
  State.selectChannel_stands _ s.endEntry

theorem State.swapProgramme_stands (n : Nat) (s : State) : ContentStands s.store (s.swapProgramme n).store := by
  unfold State.swapProgramme
  split
  · exact .refl _
  · dsimp only
    split
    · exact .refl _
    · exact s.setRecords_stands _ _ _

theorem State.endProgramme_stands (n : Nat) (s : State) : ContentStands s.store (s.endProgramme n).store := by
  unfold State.endProgramme
  split
  · exact .refl _
  · exact s.setRecords_stands _ _ _

theorem State.terminal_stands (i : Nat) (s : State) : ContentStands s.store (s.terminal i).store := by
  unfold State.terminal
  refine ContentStands.finish ?_
  split
  case h_4 =>
    unfold State.previewTerminal
    split
    · exact .refl _
    · next p _ => exact State.markPreviewed_stands p.record ((s.setMeter i Meter.free).dropPreview p.programme)
  all_goals exact .refl _

theorem State.extendMeter_stands (i : Nat) (s : State) : ContentStands s.store (s.extendMeter i).store := by
  unfold State.extendMeter
  split
  · exact .refl _
  · exact ContentStands.finish (.refl _)

theorem State.beginSlate_stands (s : State) : ContentStands s.store s.beginSlate.store := .of_eq (by simp)

/-- An event of a local second. -/
theorem State.perform_stands (s : State) (e : TickEvent) : ContentStands s.store (s.perform e).store := by
  have on : ∀ (p : Prop) [Decidable p] {t : State}, ContentStands s.store t.store →
      ContentStands s.store (if p then t else s).store := by
    intro p _ t h
    split
    · exact h
    · exact .refl _
  cases e with
  | streamLost i => exact on _ (ContentStands.finish (.refl _))
  | keyWaitExpiry i => exact on _ (ContentStands.finish (.refl _))
  | programmeSwap n => exact on _ (s.swapProgramme_stands n)
  | programmeEnd n => exact on _ (s.endProgramme_stands n)
  | pinEntryTimeout => exact on _ (.refl _)
  | channelEntryTimeout => exact on _ s.completeEntry_stands
  | cutAllowanceEnd => exact on _ s.beginSlate_stands.finish
  | refusalExpiry => exact on _ (ContentStands.finish (.refl _))
  | compare i => exact on _ (.refl _)
  | terminal i => exact on _ (s.terminal_stands i)
  | extended i => exact on _ (s.extendMeter_stands i)

theorem State.catchUp_stands (s : State) : ContentStands s.store s.catchUp.store :=
  ContentStands.foldl State.perform_stands s.due { s with due := [], keypad := { s.keypad with restarted := false } }

/-- The output slot does not reach the store (R164). -/
theorem State.outputSlot_stands (s : State) : ContentStands s.store s.outputSlot.store := by
  have same := congrArg State.store s.outputSlot_only.rest
  exact .of_eq same

/-! ## The guest keypad -/

theorem State.pinMismatched_stands (s : State) : ContentStands s.store s.pinMismatched.store := by
  unfold State.pinMismatched
  dsimp only
  split
  · exact ContentStands.finish (.refl _)
  · exact .refl _

theorem State.rateDigit_stands (d : Nat) (s : State) : ContentStands s.store (s.rateDigit d).store := by
  unfold State.rateDigit
  split
  · exact ContentStands.finish (.refl _)
  · split
    · exact .refl _
    · split <;> exact .refl _

theorem State.pinDigit_stands (d : Nat) (s : State) : ContentStands s.store (s.pinDigit d).store := by
  unfold State.pinDigit
  split
  · split
    · exact .refl _
    · split <;> exact .refl _
  · exact s.rateDigit_stands d
  · split
    · exact .refl _
    · split
      · exact ContentStands.finish (.refl _)
      · exact s.pinMismatched_stands
  · split
    · exact .refl _
    · split
      · exact ContentStands.finish (.refl _)
      · exact s.pinMismatched_stands

theorem State.digitKey_stands (d : Nat) (s : State) : ContentStands s.store (s.digitKey d).store := by
  unfold State.digitKey
  split
  · exact State.pinDigit_stands d s.endEntry
  · unfold State.channelDigit
    dsimp only
    split
    · exact .refl _
    · exact State.completeEntry_stands { s with keypad := { s.keypad with digits := s.keypad.digits ++ [d] } }

theorem State.stepTo_stands (target : Option Nat) (s : State) : ContentStands s.store (s.stepTo target).store := by
  unfold State.stepTo
  split
  · exact .refl _
  · exact State.selectChannel_stands _ s.endEntry

theorem State.previewBuy_stands (q : Preview) (p : Programme) (s : State) :
    ContentStands s.store (s.previewBuy q p).store := by
  unfold State.previewBuy
  refine ContentStands.finish ?_
  have queued := State.push_stands (op := .advance q.record (.committed (s.commitFields p))) (by simp [StoreOp.kind])
    ((s.holdPreview q.meter p.id).markBuying p.id)
  simpa using queued

theorem State.directBuy_stands (m channel : Nat) (p : Programme) (s : State) :
    ContentStands s.store (s.directBuy m channel p).store := by
  unfold State.directBuy
  refine ContentStands.finish ?_
  have queued := State.push_stands (op := .append (s.directRecord channel p)) (by simp [StoreOp.kind])
    (s.reserveMeter m p.id).takeRecordNumber
  exact ContentStands.trans (g := s.takeRecordNumber.store) ⟨rfl, rfl, fun _ member _ => member⟩ queued

theorem State.buy_stands (s : State) : ContentStands s.store s.buy.store := by
  unfold State.buy
  split
  · exact .refl _
  · split
    · exact ContentStands.finish (.refl _)
    · split
      · exact s.previewBuy_stands _ _
      · exact s.directBuy_stands _ _ _
      · exact .refl _

theorem State.cancelKey_stands (s : State) : ContentStands s.store s.cancelKey.store := by
  unfold State.cancelKey
  split
  · exact .refl _
  · split
    · exact .refl _
    · unfold State.cancelPreview
      split
      · exact .refl _
      · split
        · exact .refl _
        · split
          · exact (s.endPreview_stands _).finish
          · exact .refl _

theorem State.closeWindow_stands (s : State) : ContentStands s.store s.closeWindow.store := by
  unfold State.closeWindow
  split <;> exact .refl _

theorem State.keyAction_stands (code : Nat) (s : State) : ContentStands s.store (s.keyAction code).store := by
  unfold State.keyAction
  split
  · unfold State.enterKey
    split
    · exact .refl _
    · exact s.completeEntry_stands
  · exact s.stepTo_stands _
  · exact s.stepTo_stands _
  · exact s.endEntry.buy_stands
  · exact s.cancelKey_stands
  · exact s.endEntry.pinIdle.closeWindow_stands.finish
  · exact .refl _
  · split
    · exact s.digitKey_stands _
    · exact .refl _

theorem State.keyFrame_stands (code : Nat) (held : Bool) (s : State) :
    ContentStands s.store (s.keyFrame code held).store := by
  unfold State.keyFrame
  split
  · exact State.keyAction_stands code s.touchKeys
  · exact .refl _

theorem State.keypadByte_stands (b : Byte) (s : State) : ContentStands s.store (State.keypadByte b s).store := by
  unfold State.keypadByte
  split
  · exact .refl _
  · dsimp only
    split
    · exact s.keyFrame_stands _ _
    · exact .refl _

/-! ## Management commands -/

/-- A command whose owner's effect leaves the content alone does so too. -/
theorem State.command_stands {t : Target} {k : CommandKind} {check : State → Option Reason} {effect : State → State}
    {s : State} (h : ContentStands s.store (effect s).store) :
    ContentStands s.store (s.command t k check effect).store := by
  unfold State.command
  split
  · split
    · split
      · exact .refl _
      · exact h
    · exact .refl _
  · exact .refl _

theorem State.loadLane_stands (lane : Nat) (config : Option LaneConfig) (s : State) :
    ContentStands s.store (s.loadLane lane config).store := by
  unfold State.loadLane
  split
  · exact .refl _
  · exact ContentStands.finish (.refl _)

theorem State.setResponse_stands (lane : Nat) (response : Option Response) (s : State) :
    ContentStands s.store (s.setResponse lane response).store := by
  unfold State.setResponse
  split
  · exact .refl _
  · exact ContentStands.finish (.refl _)

theorem State.loadKey_stands (slot : Nat) (phase : Option Phase) (key : Word32) (s : State) :
    ContentStands s.store (s.loadKey slot phase key).store := by
  unfold State.loadKey
  split
  · exact .refl _
  · dsimp only
    split
    · exact .refl _
    · exact ContentStands.finish (.refl _)

theorem State.clearKey_stands (slot : Nat) (phase : Option Phase) (s : State) :
    ContentStands s.store (s.clearKey slot phase).store := by
  unfold State.clearKey
  split <;> exact .refl _

theorem State.retuned_stands (old new : ChannelEntry) (s : State) :
    ContentStands s.store (s.retuned old new).store := by
  have left : (s.untuneLanes old (some new)).store = s.store := by simp
  unfold State.retuned
  dsimp only
  split
  · exact ContentStands.finish (.of_eq left)
  · simp only [State.followOutput_keeps]
    refine ContentStands.trans (.of_eq ?_) (State.redecide_stands _)
    exact left

theorem State.dropRecords_stands (i : Nat) (old : ChannelEntry) (s : State) :
    ContentStands s.store (s.dropRecords i old).store := by
  unfold State.dropRecords
  dsimp only
  split
  · exact .refl _
  · exact State.programmeChanged_stands _ (s.setNotice _ _)

theorem State.loadChannel_stands (i : Nat) (new : Option (Option ChannelEntry)) (s : State) :
    ContentStands s.store (s.loadChannel i new).store := by
  unfold State.loadChannel
  split
  · exact .refl _
  · split
    · exact ContentStands.finish (.refl _)
    · split
      · split
        · exact .refl _
        · split
          · exact State.retuned_stands _ _ (s.setEntry _ _)
          · exact ContentStands.finish (.refl _)
      · next e _ old _ _ =>
        have dropped := State.dropRecords_stands i old (s.setEntry i e)
        refine ContentStands.finish ?_
        split
        · simpa using dropped
        · exact dropped

theorem State.setCeiling_stands (wide : Bool) (ceiling scope : Nat) (threshold : Option Nat) (s : State) :
    ContentStands s.store (s.setCeiling wide ceiling scope threshold).store := by
  unfold State.setCeiling
  refine ContentStands.finish ?_
  split
  · exact State.requestSettings_stands { s with lock := s.lock.withCeiling wide ceiling scope threshold }
  · exact .refl _

theorem State.setPin_stands (pin : Option PinDigits) (s : State) : ContentStands s.store (s.setPin pin).store := by
  unfold State.setPin
  refine ContentStands.finish ?_
  split
  · exact State.closeWindow_stands { s with lock := { s.lock with pin := pin, entry := .idle } }
  · exact .refl _

theorem State.setCutMode_stands (mode : Option CutMode) (s : State) :
    ContentStands s.store (s.setCutMode mode).store := by
  unfold State.setCutMode
  split
  · exact .refl _
  · next m =>
    have asked := State.requestSettings_stands { s with composer := { s.composer with cutMode := m } }
    refine ContentStands.finish ?_
    split
    · exact asked.trans (State.beginSlate_stands _)
    · exact asked

theorem State.loadHeader_stands (kind position : Nat) (f : Option (Option SlateHeader)) (s : State) :
    ContentStands s.store (s.loadHeader kind position f).store := by
  unfold State.loadHeader
  split <;> exact .refl _

theorem State.answerRecords_stands (first count : Nat) (s : State) :
    ContentStands s.store (s.answerRecords first count).store := by
  unfold State.answerRecords
  dsimp only
  split
  · exact .refl _
  · exact (State.requestRange_stands _ _ (s.enqueue _)).finish

theorem State.answerLane_stands (i : Nat) (s : State) : ContentStands s.store (s.answerLane i).store := by
  unfold State.answerLane
  split <;> exact .refl _

theorem State.pollTaken_stands {answer : State → State} {s : State} (h : ContentStands s.store (answer s).store) :
    ContentStands s.store (s.pollTaken answer).store := by
  unfold State.pollTaken
  split
  · exact .refl _
  · split
    · exact .refl _
    · exact h

/-- RESTART keeps the content and the operation in flight (R184). -/
theorem State.restart_stands (s : State) : ContentStands s.store s.restart.store :=
  ⟨rfl, rfl, fun _ member _ => List.mem_of_mem_take member⟩

/-- A management command that a cell carries, other than CLOSE FOLIO. -/
theorem State.runCommand_stands {i : Instr} (opens : ∀ t folio force, i ≠ .closeFolio t folio force) (s : State) :
    ContentStands s.store (s.runCommand i).store := by
  cases i with
  | closeFolio t folio force => exact absurd rfl (opens t folio force)
  | assignRoom t room group =>
    exact State.command_stands (State.requestSettings_stands
      { s with management := { s.management with room := room, group := group } }).finish
  | restart t => exact State.command_stands s.restart_stands
  | loadLane => exact State.command_stands (s.loadLane_stands _ _)
  | setLaneResponse t lane response => exact State.command_stands (s.setResponse_stands lane _)
  | loadKey t slot phase key => exact State.command_stands (s.loadKey_stands slot _ key)
  | clearKey t slot phase => exact State.command_stands (s.clearKey_stands slot _)
  | setPackages t set => exact State.command_stands (ContentStands.finish (.refl _))
  | loadChannel => exact State.command_stands (s.loadChannel_stands _ _)
  | loadRatingMap t classes => exact State.command_stands (ContentStands.finish (.refl _))
  | setCeiling t ceiling scope threshold => exact State.command_stands (s.setCeiling_stands _ _ _ _)
  | setPin t pin => exact State.command_stands (s.setPin_stands pin)
  | setUnlockMinutes t minutes =>
    exact State.command_stands (State.requestSettings_stands
      { s with lock := { s.lock with unlockMinutes := minutes } }).finish
  | loadPrice => exact State.command_stands (ContentStands.finish (.refl _))
  | setBilling t enabled tax cap day credit =>
    exact State.command_stands (State.requestSettings_stands { s with buying := { s.buying with
      billing := enabled == 1, taxRate := min tax 2500, dayCap := cap, dayStart := day,
      defaultCredit := credit } }).finish
  | setCredit t limit => exact State.command_stands (.refl _)
  | extendRental t record minutes =>
    exact State.command_stands (State.push_stands (op := .writeExtension record minutes) (by simp [StoreOp.kind])
      (s.onRental record fun r => { r with extension := .requested })).finish
  | loadSlateHeader t kind position fields => exact State.command_stands (s.loadHeader_stands _ _ _)
  | loadSlatePayload => exact State.command_stands (.refl _)
  | setCutMode t mode => exact State.command_stands (s.setCutMode_stands _)
  | pollStatus t => exact State.command_stands (State.pollTaken_stands (.refl _))
  | pollRecords t first count => exact State.command_stands (State.pollTaken_stands (s.answerRecords_stands _ _))
  | pollLane t lane => exact State.command_stands (State.pollTaken_stands (s.answerLane_stands _))
  | settle t folio through =>
    exact State.command_stands (State.push_stands (op := .advanceRange .settled (List.range' 1 through))
      (by simp [StoreOp.kind]) s).finish
  | clearNotices t flags => exact State.command_stands (.refl _)
  | setNoticeMask t flags => exact State.command_stands (.refl _)
  | unknownCommand t => exact State.command_stands (.refl _)
  | _ => exact .refl _

end Sys2Proof.Machine
end

section
/-!
PROOF. A record's marks are only added to: programming adds marks, all else outside a close's erases leaves the content
alone (O59).
-/

namespace Sys2Proof.Machine

/-! ## Programming adds marks (R124, R126) -/

/-- Every record keeps its marks from f to g. -/
abbrev FolioStore.MarksStay (f g : FolioStore) : Prop := ∀ n, MarksKept (f.slot n) (g.slot n)

theorem marksKept_refl (sl : Slot) : MarksKept sl sl := ⟨id, id, id, id, id⟩

theorem marksKept_trans {a b c : Slot} (first : MarksKept a b) (next : MarksKept b c) : MarksKept a c := by
  obtain ⟨o, p, c, r, s⟩ := first
  obtain ⟨o', p', c', r', s'⟩ := next
  exact ⟨o' ∘ o, p' ∘ p, c' ∘ c, r' ∘ r, s' ∘ s⟩

/-- Slots are read from the sectors. -/
theorem FolioStore.slot_congr {f g : FolioStore} (h : g.sectors = f.sectors) (n : Nat) : g.slot n = f.slot n := by
  unfold FolioStore.slot FolioStore.sector
  rw [h]

theorem FolioStore.MarksStay.of_sectors {f g : FolioStore} (h : g.sectors = f.sectors) : f.MarksStay g := fun n => by
  rw [FolioStore.slot_congr h]
  exact marksKept_refl _

theorem FolioStore.MarksStay.trans {f g h : FolioStore} (first : f.MarksStay g) (next : g.MarksStay h) :
    f.MarksStay h := fun n => marksKept_trans (first n) (next n)

/-- Of a store of any shape, a change of one slot changes that slot or nothing. -/
theorem FolioStore.slot_onSlot_cases (f : FolioStore) (n : Nat) (g : Slot → Slot) (m : Nat) :
    (f.onSlot n g).slot m = f.slot m ∨ (f.onSlot n g).slot m = g (f.slot m) := by
  unfold FolioStore.onSlot FolioStore.slot
  split
  · exact .inl rfl
  · split
    · exact .inl rfl
    · dsimp only
      simp only [FolioStore.sector, List.getD_eq_getElem?_getD, List.getElem?_set]
      by_cases sector : (n - 1) / 64 = (m - 1) / 64
      · rw [if_pos sector, sector]
        by_cases within : (m - 1) / 64 < f.sectors.length
        · rw [if_pos within]
          simp only [Option.getD_some, List.getElem?_modify]
          cases ((f.sectors[(m - 1) / 64]?).getD Sector.erased).slots[(m - 1) % 64]? with
          | none => exact .inl rfl
          | some sl => split <;> simp
        · rw [if_neg within, List.getElem?_eq_none (Nat.le_of_not_lt within)]
          exact .inl rfl
      · rw [if_neg sector]
        exact .inl rfl

theorem FolioStore.onSlot_marks {g : Slot → Slot} (keeps : ∀ sl, MarksKept sl (g sl)) (n : Nat) (f : FolioStore) :
    f.MarksStay (f.onSlot n g) := fun m => by
  rcases f.slot_onSlot_cases n g m with same | changed
  · rw [same]
    exact marksKept_refl _
  · rw [changed]
    exact keeps _

/-- A step that takes no mark away, and does not program the close mark. -/
def AddsMarks (g : FolioStore → FolioStore) : Prop :=
  ∀ f, f.MarksStay (g f) ∧ (f.page.closeMark = false → (g f).page.closeMark = false)

/-- A field is programmed in a slot. -/
theorem AddsMarks.onSlot (n : Nat) {g : Slot → Slot} (keeps : ∀ sl, MarksKept sl (g sl)) :
    AddsMarks (FolioStore.onSlot n g) := fun f =>
  ⟨f.onSlot_marks keeps n, fun unmarked => by rwa [FolioStore.onSlot_page]⟩

theorem AddsMarks.onPage {g : Page → Page} (unmarked : ∀ p, p.closeMark = false → (g p).closeMark = false) :
    AddsMarks (FolioStore.onPage g) := fun f => ⟨.of_sectors rfl, unmarked f.page⟩

theorem AddsMarks.foldl {gs : List (FolioStore → FolioStore)} (all : ∀ g ∈ gs, AddsMarks g) :
    AddsMarks fun f => gs.foldl (fun f g => g f) f := by
  induction gs with
  | nil => exact fun f => ⟨.of_sectors rfl, id⟩
  | cons g gs ih =>
    intro f
    obtain ⟨marks, page⟩ := all g List.mem_cons_self f
    obtain ⟨marks', page'⟩ := ih (fun h member => all h (List.mem_cons_of_mem _ member)) (g f)
    exact ⟨marks.trans marks', page' ∘ page⟩

theorem commitSteps_addMarks (n : Nat) (c : CommitFields) : ∀ g ∈ commitSteps n c, AddsMarks g := by
  simp only [commitSteps, List.forall_mem_cons, List.not_mem_nil, false_implies, implies_true, and_true]
  exact ⟨.onSlot n marksKept_refl, .onSlot n marksKept_refl, .onSlot n marksKept_refl, .onSlot n marksKept_refl⟩

theorem appendSteps_addMarks (r : NewRecord) : ∀ g ∈ appendSteps r, AddsMarks g := by
  have field {g : Slot → Slot} (keeps : ∀ sl, MarksKept sl (g sl)) := AddsMarks.onSlot r.number keeps
  simp only [appendSteps, List.forall_mem_append, List.forall_mem_cons, List.not_mem_nil, false_implies,
    implies_true, and_true]
  refine ⟨⟨⟨field marksKept_refl, field marksKept_refl, field marksKept_refl, field marksKept_refl,
    field marksKept_refl, field marksKept_refl⟩, ?_⟩,
    field fun sl => ⟨fun _ => rfl, id, fun h => by simp [h], id, id⟩⟩
  split
  · exact commitSteps_addMarks _ _
  · simp

theorem advanceSteps_addMarks (n : Nat) (t : AdvanceTarget) (f : FolioStore) :
    ∀ g ∈ advanceSteps n t f, AddsMarks g := by
  unfold advanceSteps
  split
  · simp
  · split
    · simp only [List.forall_mem_cons, List.not_mem_nil, false_implies, implies_true, and_true]
      exact ⟨.onSlot n marksKept_refl, .onSlot n fun _ => ⟨id, fun _ => rfl, id, id, id⟩⟩
    · simp only [List.forall_mem_append, List.forall_mem_cons, List.not_mem_nil, false_implies, implies_true, and_true]
      exact ⟨commitSteps_addMarks n _, .onSlot n fun _ => ⟨id, id, fun _ => rfl, id, id⟩⟩

theorem RangeTarget.mark_adds (t : RangeTarget) (sl : Slot) : MarksKept sl (t.mark sl) := by
  cases t with
  | reported => exact ⟨id, id, id, fun _ => rfl, id⟩
  | settled => exact ⟨id, id, id, id, fun _ => rfl⟩

theorem settingsSteps_addMarks (folio : Nat) (v : Standing) : ∀ g ∈ settingsSteps folio v, AddsMarks g := by
  have field {g : Page → Page} (same : ∀ p, (g p).closeMark = p.closeMark) := AddsMarks.onPage (g := g) fun p h =>
    (same p).trans h
  simp only [settingsSteps, List.forall_mem_cons, List.not_mem_nil, false_implies, implies_true, and_true]
  exact ⟨.onPage fun _ _ => rfl, field fun _ => rfl, field fun _ => rfl, field fun _ => rfl, field fun _ => rfl,
    field fun _ => rfl, field fun _ => rfl, field fun _ => rfl, field fun _ => rfl, field fun _ => rfl,
    field fun _ => rfl, field fun _ => rfl, field fun _ => rfl, field fun _ => rfl⟩

/-- The steps of an operation that neither erases a sector nor programs the close mark. -/
theorem opSteps_addMarks (f : FolioStore) {op : StoreOp} (keeps : op.kind ≠ .eraseSector)
    (unclosing : op.kind ≠ .closeMark) : ∀ g ∈ opSteps f op, AddsMarks g := by
  match op with
  | .append r => exact appendSteps_addMarks r
  | .advance n t => exact advanceSteps_addMarks n t f
  | .advanceRange t ns =>
    intro g member
    obtain ⟨n, -, rfl⟩ := List.mem_map.1 member
    exact .onSlot n t.mark_adds
  | .writeExtension n m =>
    intro g member
    simp only [opSteps, extensionSteps] at member
    split at member
    · rw [List.mem_singleton.1 member]
      exact .onSlot n marksKept_refl
    · cases member
  | .writeSettings _ none => exact fun _ member => nomatch member
  | .writeSettings _ (some (folio, v)) => exact settingsSteps_addMarks folio v
  | .eraseSector _ => exact absurd rfl keeps
  | .closeMark => exact absurd rfl unclosing

/-- What an operation that erases no sector leaves, however many of its steps it makes. -/
structure Programmed (f g : FolioStore) (op : StoreOp) : Prop where
  marks : f.MarksStay g
  unmarked : f.page.closeMark = false → op.kind ≠ .closeMark → g.page.closeMark = false

theorem FolioStore.steps_programmed (f : FolioStore) {op : StoreOp} (keeps : op.kind ≠ .eraseSector)
    {gs : List (FolioStore → FolioStore)} (steps : gs ⊆ opSteps f op) :
    Programmed f (gs.foldl (fun f g => g f) f) op := by
  by_cases mark : op.kind = .closeMark
  · have sectors : (gs.foldl (fun f g => g f) f).sectors = f.sectors := by
      cases op with
      | closeMark =>
        refine List.foldlRecOn gs (motive := fun g : FolioStore => g.sectors = f.sectors) _ rfl
          fun g same step member => ?_
        rw [List.mem_singleton.1 (steps member)]
        exact same
      | _ => cases mark
    exact ⟨.of_sectors sectors, fun _ other => absurd mark other⟩
  · obtain ⟨marks, page⟩ := AddsMarks.foldl (fun g member => opSteps_addMarks f keeps mark g (steps member)) f
    exact ⟨marks, fun unmarked _ => page unmarked⟩

theorem FolioStore.programAll_programmed (f : FolioStore) {op : StoreOp} (keeps : op.kind ≠ .eraseSector) :
    Programmed f (f.programAll op) op := f.steps_programmed keeps fun _ member => member

theorem FolioStore.programSteps_programmed (f : FolioStore) {op : StoreOp} (k : Nat) (keeps : op.kind ≠ .eraseSector) :
    Programmed f (f.programSteps op k) op := by
  refine f.steps_programmed keeps fun g member => ?_
  unfold FolioStore.attempted at member
  split at member
  · cases member
  · exact List.mem_of_mem_take member

end Sys2Proof.Machine
end

section
/-!
PROOF. Completions, the close, power and every command add marks alone where no erase is begun (O59); no command stops
the block (O2).
-/

namespace Sys2Proof.Machine

/-! ## Queues that hold no erase -/

/-- No ERASE SECTOR stands in the queue. -/
abbrev FolioStore.Quiet (f : FolioStore) : Prop := ∀ q ∈ f.queue, q.op.kind ≠ .eraseSector

theorem ContentStands.quiet {f g : FolioStore} (h : ContentStands f g) (quiet : f.Quiet) : g.Quiet :=
  fun q member erases => quiet q (h.erases q member erases) erases

theorem ContentStands.noErase {s t : State} (h : ContentStands s.store t.store) (calm : NoErase s) : NoErase t :=
  ⟨(congrArg Page.closeMark h.page).trans calm.1, h.quiet calm.2⟩

theorem ContentStands.marks {f g : FolioStore} (h : ContentStands f g) : f.MarksStay g := .of_sectors h.sectors

theorem StoreOp.started_kind (s : State) (op : StoreOp) : (op.started s).kind = op.kind := by cases op <;> rfl

theorem FolioStore.onStart_plain (f : FolioStore) {op : StoreOp} (keeps : op.kind ≠ .eraseSector) :
    f.onStart op = f := by
  cases op with
  | eraseSector k => exact absurd rfl keeps
  | _ => rfl

theorem State.startHead_stands {s : State} (quiet : s.store.Quiet) : ContentStands s.store s.startHead.store := by
  unfold State.startHead
  split
  · exact .refl _
  · next q rest queue =>
    have plain : q.op.kind ≠ .eraseSector := quiet q (queue ▸ List.mem_cons_self)
    rw [FolioStore.onStart_plain _ plain]
    refine ⟨rfl, rfl, fun x member erases => ?_⟩
    rcases List.mem_cons.1 member with rfl | behind
    · exact absurd ((q.op.started_kind s).symm.trans erases) plain
    · exact queue ▸ List.mem_cons_of_mem _ behind

theorem State.popOp_stands (s : State) : ContentStands s.store s.popOp.store :=
  ⟨rfl, rfl, fun _ member _ => List.mem_of_mem_drop member⟩

theorem State.startNext_stands (more : Nat) {s : State} (quiet : s.store.Quiet) :
    ContentStands s.store (s.startNext more).store := by
  induction more generalizing s with
  | zero => exact State.startHead_stands quiet
  | succ more ih =>
    unfold State.startNext
    split
    · have popped := s.popOp_stands.trans (State.fillRoom_stands _)
      exact popped.trans (ih (popped.quiet quiet))
    · exact State.startHead_stands quiet

/-- A close that has not programmed its mark begins with the mark, and erases nothing yet (R140). -/
theorem State.startClose_sectors {s : State} (unmarked : s.store.page.closeMark = false) :
    s.startClose.store.sectors = s.store.sectors := by
  by_cases empty : s.store.queue = []
  · obtain ⟨-, -, begun⟩ := s.startClose_facts empty
    exact (begun.unmarked unmarked).1
  · rw [State.startClose, if_neg empty]

/-! ## Completions -/

theorem State.proceed_sectors {op : StoreOp} {s : State} (quiet : s.store.Quiet)
    (unmarked : op.kind ≠ .closeMark → s.store.page.closeMark = false) :
    (s.proceed op).store.sectors = s.store.sectors := by
  unfold State.proceed
  split
  · next earlier =>
    refine State.startClose_sectors (unmarked fun mark => ?_)
    cases op with
    | closeMark => simp [StoreOp.ofClose] at earlier
    | _ => cases mark
  · exact (State.startNext_stands _ quiet).sectors

theorem State.push_advance_closing (n : Nat) (s : State) :
    (s.push (.advance n .previewed)).store.closing = s.store.closing := by rw [State.push_advance]

theorem State.fillRoom_closing (s : State) : s.fillRoom.store.closing = s.store.closing := by
  have marking : s.takeMarking.store.closing = s.store.closing := by
    unfold State.takeMarking
    split
    · rfl
    · split
      · exact State.push_advance_closing _ _
      · rfl
  refine Eq.trans ?_ marking
  unfold State.fillRoom State.takeScanList
  split
  · rfl
  · split
    · exact State.push_advance_closing _ _
    · rfl

/-- What waits behind the operation that completes is the queue that it leaves. -/
theorem State.popped_quiet (op : StoreOp) {s : State} (behind : ∀ q ∈ s.store.queue.drop 1, q.op.kind ≠ .eraseSector) :
    (s.stored fun f => f.programAll op).popOp.store.Quiet := by
  show ∀ q ∈ (s.store.programAll op).queue.drop 1, _
  rwa [FolioStore.programAll_queue]

/-- What the requester and the end of a close do leaves the content alone. -/
theorem State.told_stands (op : StoreOp) (s : State) : ContentStands s.store
    (if op.isEnding then (s.requesterOk op).closeEnds else s.requesterOk op).store := by
  have told : (s.requesterOk op).store = s.store := by simp
  have ended : ContentStands (s.requesterOk op).store (s.requesterOk op).closeEnds.store :=
    ⟨rfl, rfl, fun _ member _ => member⟩
  split
  · exact (ContentStands.of_eq told).trans ended
  · exact .of_eq told

/-- A completion programs the content and takes the operation from the queue. While the store awaits its scan that is
all (R144); else the requester and the lists leave the content alone, and the queue goes on. -/
theorem State.opDone_cases (op : StoreOp) (s : State) :
    let p := (s.stored fun f => f.programAll op).popOp
    s.opDone op = p ∨ ∃ u : State, ContentStands p.store u.store ∧ (p.store.closing = false → u.store.closing = false)
      ∧ s.opDone op = (u.proceed op).finish := by
  intro p
  unfold State.opDone
  dsimp only
  split
  · exact .inl rfl
  · refine .inr ⟨_, (State.told_stands op p).trans (State.fillRoom_stands _), fun opened => ?_, rfl⟩
    rw [State.fillRoom_closing]
    split
    · rfl
    · simpa using opened

theorem State.opDone_marks {op : StoreOp} {s : State} (keeps : op.kind ≠ .eraseSector)
    (behind : ∀ q ∈ s.store.queue.drop 1, q.op.kind ≠ .eraseSector) (unmarked : s.store.page.closeMark = false) :
    s.store.MarksStay (s.opDone op).store := by
  have programmed := s.store.programAll_programmed keeps
  refine programmed.marks.trans (.of_sectors ?_)
  rcases s.opDone_cases op with awaits | ⟨u, stands, -, done⟩
  · rw [awaits]
    rfl
  · have popped := State.popped_quiet op behind
    have goesOn := State.proceed_sectors (op := op) (stands.quiet popped) fun other =>
      (congrArg Page.closeMark stands.page).trans (programmed.unmarked unmarked other)
    rw [done]
    exact ((State.finish_stands _).sectors.trans goesOn).trans stands.sectors

theorem State.opRetried_marks {q : QueuedOp} {s : State} (k : Nat) (keeps : q.op.kind ≠ .eraseSector)
    (quiet : s.store.Quiet) (unmarked : s.store.page.closeMark = false) :
    s.store.MarksStay (s.opRetried q k).store := by
  have programmed := s.store.programSteps_programmed k keeps
  unfold State.opRetried
  extract_lets again s1
  split
  · next idle =>
    have ranges : q.op.kind ≠ .closeMark := by
      obtain ⟨t, ns, range, -⟩ := (FolioStore.idleRange_iff _ _).1 idle
      simp [range, StoreOp.kind]
    exact FolioStore.MarksStay.trans (g := s1.store) programmed.marks (State.opDone_marks (s := s1) keeps
      (fun x member => quiet x (List.mem_of_mem_drop member)) (programmed.unmarked unmarked ranges))
  · exact programmed.marks

theorem State.opFailed_marks {q : QueuedOp} {rest : List QueuedOp} {s : State} (k : Nat)
    (queue : s.store.queue = q :: rest) (keeps : q.op.kind ≠ .eraseSector)
    (unmarked : s.store.page.closeMark = false) : s.store.MarksStay (s.opFailed q.op k).store := by
  have programmed := s.store.programSteps_programmed k keeps
  refine programmed.marks.trans (.of_sectors ?_)
  by_cases awaits : s.store.awaitingScan = true
  · rw [State.opFailed_awaiting queue q.op awaits]
    rfl
  · rw [State.opFailed_served queue q.op (Bool.eq_false_of_not_eq_true awaits)]
    obtain ⟨-, -, store⟩ := s.faulted_facts q.op k rest
    refine (State.finish_stands _).sectors.trans ?_
    generalize ((s.attemptFailed q.op k rest).requesterFail q.op).dropWaiting.faulted q.op = x at store ⊢
    have sectors : x.store.sectors = (s.store.programSteps q.op k).sectors := by rw [store]
    obtain ⟨-, -, -, -, stays, goesOn⟩ := x.goOnClosing_facts (congrArg FolioStore.queue store)
    by_cases closing : x.store.closing = true
    · have other : q.op.kind ≠ .closeMark := fun mark => by
        have ends := (congrArg FolioStore.closing store).symm.trans closing
        generalize q.op = op at mark ends
        cases op with
        | closeMark => simp [StoreOp.ofClose] at ends
        | _ => cases mark
      have blank : x.store.page.closeMark = false :=
        (congrArg (·.page.closeMark) store).trans (programmed.unmarked unmarked other)
      exact ((goesOn closing).unmarked blank).1.trans sectors
    · rw [stays (Bool.eq_false_of_not_eq_true closing), sectors]

/-- A completion takes no mark away. -/
theorem State.completion_marks (kind : OpKind) (r : OpResult) {s : State} (calm : NoErase s) :
    s.store.MarksStay (State.completion kind r s).store := by
  obtain ⟨unmarked, quiet⟩ := calm
  unfold State.completion
  split
  · exact .of_sectors rfl
  · next q rest queue =>
    have keeps : q.op.kind ≠ .eraseSector := quiet q (queue ▸ List.mem_cons_self)
    have done : s.store.MarksStay (s.opDone q.op).store :=
      State.opDone_marks keeps (fun x member => quiet x (List.mem_of_mem_drop member)) unmarked
    have fails (k : Nat) : s.store.MarksStay (s.opFails q k).store := by
      unfold State.opFails
      split
      · exact State.opFailed_marks k queue keeps unmarked
      · exact State.opRetried_marks k keeps quiet unmarked
    split
    · split
      · exact fails 0
      · split
        · exact done
        · split
          · exact done
          · exact fails _
    · exact .of_sectors rfl

/-! ## Power and the scan -/

theorem State.scanRecords_stands (s : State) : ContentStands s.store s.scanRecords.store := by
  unfold State.scanRecords
  dsimp only
  refine ContentStands.trans ?_ (State.pushAll_stands (fun op member => ?_) _)
  · exact ⟨rfl, rfl, fun _ member _ => nomatch member⟩
  · rcases List.mem_append.1 member with advance | write
    · obtain ⟨n, -, rfl⟩ := List.mem_map.1 advance
      simp [StoreOp.kind]
    · split at write
      · cases write
      · rw [List.mem_singleton.1 write]
        simp [StoreOp.kind]

/-- The scan resumes no close where the close mark is not programmed (R142). -/
theorem State.scanned_stands {s : State} (unmarked : s.store.page.closeMark = false) :
    ContentStands s.store s.scanned.store := by
  unfold State.scanned
  extract_lets _ s1 s2
  have read : ContentStands s.store s1.store := ⟨rfl, rfl, fun _ member _ => member⟩
  have found : s2 = s1.scanRecords := if_neg (by simpa [s1, State.withStanding] using unmarked)
  have queued : ContentStands s.store s2.store := found ▸ read.trans s1.scanRecords_stands
  refine ContentStands.finish (queued.trans ?_)
  split
  · refine ContentStands.trans ?_ (State.restoreRentals_stands _)
    exact ⟨rfl, rfl, fun _ member _ => member⟩
  · exact .refl _

theorem State.cold_stands (s : State) : ContentStands s.store s.cold.store :=
  ⟨rfl, rfl, fun _ member _ => nomatch member⟩

theorem State.powerRemoved_marks (k : Nat) {s : State} (calm : NoErase s) :
    s.store.MarksStay (s.powerRemoved k).store := by
  show s.store.MarksStay (s.store.cut k).cold
  unfold FolioStore.cut
  split
  · exact .of_sectors rfl
  · next q _ queue =>
    exact (s.store.programSteps_programmed k (calm.2 q (queue ▸ List.mem_cons_self))).marks

/-! ## Every command -/

/-- Where no erase is begun, f takes no mark away. -/
def AddsOnly (f : State → State) : Prop := ∀ s, NoErase s → s.store.MarksStay (f s).store

theorem AddsOnly.of_stands {f : State → State} (h : ∀ s, ContentStands s.store (f s).store) : AddsOnly f :=
  fun s _ => (h s).marks

theorem State.closeFolio_adds : AddsOnly State.closeFolio := fun s calm => by
  unfold State.closeFolio
  exact .of_sectors ((State.finish_stands _).sectors.trans (State.startClose_sectors calm.1))

theorem State.runCommand_adds (i : Instr) : AddsOnly (State.runCommand i) := by
  cases i with
  | closeFolio t folio force =>
    intro s calm
    show s.store.MarksStay (s.command _ _ _ _).store
    unfold State.command
    split
    · split
      · split
        · exact .of_sectors rfl
        · exact State.closeFolio_adds s calm
      · exact .of_sectors rfl
    · exact .of_sectors rfl
  | _ => exact .of_stands (State.runCommand_stands nofun)

theorem State.manage_adds (c : Cell) : AddsOnly (State.manage c) := by
  intro s calm
  unfold State.manage
  split
  · exact .of_sectors rfl
  · split
    · exact .of_sectors rfl
    · split
      · split
        · exact State.runCommand_adds _ s calm
        · exact .of_sectors rfl
      · exact .of_sectors rfl

theorem State.route_adds (c : Cell) : AddsOnly (State.route c) := by
  intro s calm
  unfold State.route
  split
  · split
    · unfold State.acceptCell
      refine (ContentStands.finish ?_).marks
      split <;> exact .refl _
    · exact .of_sectors rfl
  · split
    · exact .of_sectors rfl
    · split
      · exact State.manage_adds c s calm
      · split
        · unfold State.beaconCell
          split
          · exact .of_sectors rfl
          · exact (s.beacon_stands _).marks
        · split
          · unfold State.noticeCell
            split
            · exact .of_sectors rfl
            · exact (s.notice_stands _ _).marks
          · exact .of_sectors rfl

/-- Intake stands apart from the store. -/
theorem AddsOnly.withIntake {f : State → State} (hf : AddsOnly f) {s : State} (calm : NoErase s) (k : Intake) :
    s.store.MarksStay (f (s.withIntake k)).store := hf (s.withIntake k) calm

theorem State.cellReceived_adds (bytes : List Byte) : AddsOnly (State.cellReceived bytes) := by
  intro s calm
  unfold State.cellReceived
  split
  · split
    · exact (State.route_adds _).withIntake calm _
    · exact .of_sectors rfl
  · exact .of_sectors rfl

theorem State.syncSearch_adds (skipped : Nat) (bytes : List Byte) : AddsOnly (State.syncSearch skipped bytes) := by
  intro s calm
  unfold State.syncSearch
  split
  · split
    · dsimp only
      split
      · exact .of_sectors rfl
      · exact (State.route_adds _).withIntake calm _
    · exact .of_sectors rfl
  · exact .of_sectors rfl

/-- How a command ends where no erase is begun: in a next state that has every mark. -/
def EndsMarked (s : State) (o : Host.Outcome State Fault Refusal) : Prop :=
  ∃ t, o = .next t ∧ s.store.MarksStay t.store

section Commands

variable {s : State} (calm : NoErase s)
include calm

theorem State.act_marked {f : State → State} (hf : AddsOnly f) : EndsMarked s (s.act f) := by
  refine ⟨_, rfl, ?_⟩
  split
  · exact s.catchUp_stands.marks.trans (hf _ (s.catchUp_stands.noErase calm))
  · exact .of_sectors rfl

theorem State.act_stands_marked {f : State → State} (hf : ∀ s, ContentStands s.store (f s).store) :
    EndsMarked s (s.act f) := State.act_marked calm (.of_stands hf)

omit calm in
theorem State.takeEvent_marked (e : TickEvent) (s : State) : EndsMarked s (s.takeEvent e) := by
  refine ⟨_, rfl, ?_⟩
  split
  · exact (State.perform_stands { s with due := s.due.erase e } e).marks
  · exact .of_sectors rfl

theorem State.takeFrame_marked (code : Nat) (held : Bool) : EndsMarked s (s.takeFrame code held) := by
  refine State.act_stands_marked calm fun t => ?_
  split
  · exact .refl _
  · exact t.keyFrame_stands code held

theorem State.completion_marked (kind : OpKind) (r : OpResult) : EndsMarked s (s.act (State.completion kind r)) :=
  State.act_marked calm fun _ still => State.completion_marks kind r still

theorem exec_marked (c : Instr) : EndsMarked s (exec c s) := by
  cases hm : c.managed with
  | some tk => exact exec_of_managed hm s ▸ State.act_marked calm (State.runCommand_adds c)
  | none =>
    cases c with
    | powerOn => exact ⟨_, rfl, (s.cold_stands.trans (State.scanned_stands calm.1)).marks⟩
    | powerRemoved k =>
      refine ⟨_, rfl, ?_⟩
      split
      · exact State.powerRemoved_marks k calm
      · exact .of_sectors rfl
    | syncSearch skipped bytes => exact State.act_marked calm (State.syncSearch_adds skipped bytes)
    | cellReceived bytes => exact State.act_marked calm (State.cellReceived_adds bytes)
    | outputSlot => exact State.act_stands_marked calm State.outputSlot_stands
    | localSecond => exact State.act_stands_marked calm fun _ => .refl _
    | streamLost i => exact State.takeEvent_marked (.streamLost i) s
    | keyWaitExpiry i => exact State.takeEvent_marked (.keyWaitExpiry i) s
    | programmeSwap n => exact State.takeEvent_marked (.programmeSwap n) s
    | programmeEnd n => exact State.takeEvent_marked (.programmeEnd n) s
    | pinEntryTimeout => exact State.takeEvent_marked .pinEntryTimeout s
    | channelEntryTimeout => exact State.takeEvent_marked .channelEntryTimeout s
    | cutAllowanceEnd => exact State.takeEvent_marked .cutAllowanceEnd s
    | refusalExpiry => exact State.takeEvent_marked .refusalExpiry s
    | compare i => exact State.takeEvent_marked (.compare i) s
    | terminal i => exact State.takeEvent_marked (.terminal i) s
    | extended i => exact State.takeEvent_marked (.extended i) s
    | firstByteExpiry =>
      refine State.act_stands_marked calm fun t => ?_
      unfold State.expireFirstByte
      split <;> exact .refl _
    | framingError => exact State.act_stands_marked calm fun _ => .refl _
    | badFrame => exact State.act_stands_marked calm fun _ => .refl _
    | digit d held => exact State.takeFrame_marked calm d held
    | enter held => exact State.takeFrame_marked calm 10 held
    | chPlus held => exact State.takeFrame_marked calm 11 held
    | chMinus held => exact State.takeFrame_marked calm 12 held
    | buy held => exact State.takeFrame_marked calm 13 held
    | cancel held => exact State.takeFrame_marked calm 14 held
    | lock held => exact State.takeFrame_marked calm 15 held
    | rate held => exact State.takeFrame_marked calm 16 held
    | unassignedKeyCode code held => exact State.takeFrame_marked calm code held
    | timeBeacon time => exact State.act_stands_marked calm (State.beacon_stands _)
    | currentNotice fields => exact State.act_stands_marked calm (State.notice_stands 0 fields)
    | nextNotice fields => exact State.act_stands_marked calm (State.notice_stands 1 fields)
    | appendCompletes r => exact State.completion_marked calm .append r
    | advanceCompletes r => exact State.completion_marked calm .advance r
    | advanceRangeCompletes r => exact State.completion_marked calm .advanceRange r
    | writeExtensionCompletes r => exact State.completion_marked calm .writeExtension r
    | writeSettingsCompletes r => exact State.completion_marked calm .writeSettings r
    | eraseSectorCompletes r => exact State.completion_marked calm .eraseSector r
    | closeMarkCompletes r => exact State.completion_marked calm .closeMark r
    | scan =>
      refine State.act_marked calm fun t still => ?_
      unfold State.scan
      split
      · exact (State.scanned_stands still.1).marks
      · exact .of_sectors rfl
    | frameSent =>
      refine State.act_stands_marked calm fun t => ?_
      unfold State.frameSent
      split <;> exact .refl _
    | firstByteReceived byte => exact State.act_stands_marked calm (State.keypadByte_stands byte)
    | _ => cases hm

end Commands

/-- Settles O59: a command adds marks alone (`exec_marked`), and the queue's rest does not touch the store. -/
theorem records_only_advance : Obligations.records_only_advance := by
  intro s t calm stepped
  unfold step at stepped
  split at stepped
  · cases stepped
    exact FolioStore.MarksStay.of_sectors rfl
  · next c rest _ =>
    obtain ⟨u, run, marks⟩ := exec_marked (s := { s with pending := rest }) calm c
    rw [run] at stepped
    cases stepped
    exact marks

/-! ## No command stops the block -/

section Unpowered

variable {s : State} (off : s.powered = false)
include off

/-- A part without power takes no event of a local second (log entry 10). -/
theorem State.takeEvent_unpowered (e : TickEvent) : s.takeEvent e = .next s := by simp [State.takeEvent, off]

theorem State.act_unpowered (f : State → State) : s.act f = .next s := by simp [State.act, off]

/-- A part without power takes nothing but POWER_ON (log entry 10). -/
theorem exec_unpowered {c : Instr} (other : c ≠ .powerOn) : exec c s = .next s := by
  cases event : c.isTickEvent with
  | true =>
    obtain ⟨e, rfl⟩ := Instr.command_of_isTickEvent event
    exact (exec_command e s).trans (State.takeEvent_unpowered off e)
  | false =>
    cases power : c.isPower with
    | true =>
      cases c with
      | powerOn => exact absurd rfl other
      | powerRemoved k => exact congrArg Host.Outcome.next (if_neg (by simp [off]))
      | _ => cases power
    | false =>
      cases frame : c.isKeyFrame with
      | true =>
        obtain ⟨code, held, acts⟩ := exec_keyFrame frame
        exact (acts s).trans (State.act_unpowered off _)
      | false =>
        obtain ⟨f, acts⟩ := exec_acts event power frame
        exact (acts s).trans (State.act_unpowered off f)

end Unpowered

/-- Settles O2: every command ends in a next state (`exec_kept`), the same one on a part without power. -/
theorem no_command_stops_the_block : Obligations.no_command_stops_the_block := by
  intro c s
  obtain ⟨t, run, -⟩ := exec_kept c s
  exact ⟨⟨t, run⟩, fun off other => exec_unpowered off other⟩

end Sys2Proof.Machine
end

section
/-!
PROOF. A WRITE SETTINGS asked for (O26), and the removal of power (O6).
-/

namespace Sys2Proof.Machine

/-! ## The request for a WRITE SETTINGS (R129, R130, R136) -/

section Request

variable {s : State}

theorem FolioStore.unstartedSettings_iff (f : FolioStore) :
    f.unstartedSettings = true ↔ ∃ q ∈ f.queue.tail, q.op.isWriteSettings = true := List.any_eq_true

/-- One that has not started serves the request. -/
theorem State.requestSettings_served (served : s.store.unstartedSettings = true) : s.requestSettings = s :=
  if_pos served

theorem State.requestSettings_refused (refused : s.store.accepts = false ∨ 8 ≤ s.store.queue.length) :
    s.requestSettings = s := by
  unfold State.requestSettings
  split
  · rfl
  · refine if_neg fun taken => ?_
    have room := FolioStore.room_of_accepts taken
    rcases refused with shut | full
    · simp [shut] at taken
    · omega

theorem State.requestSettings_asked (unserved : s.store.unstartedSettings = false) (accepts : s.store.accepts = true)
    (room : s.store.queue.length < 8) : s.requestSettings = s.push (.writeSettings false none) := by
  unfold State.requestSettings
  rw [unserved, accepts, FolioStore.queueFull, decide_eq_false (by omega)]
  rfl

/-- One that starts at once takes the folio number and the values in force. -/
theorem State.push_settings_starts (empty : s.store.queue = []) : s.push (.writeSettings false none) =
    { s with store := { s.store with queue :=
      [(StoreOp.writeSettings false (some (s.store.folio, s.standing))).queued] } } :=
  s.pushAll_starts (.writeSettings false none) [] empty rfl

end Request

/-- Settles O26: the request is served, refused or asked (`requestSettings_served`, `_refused`, `_asked`). -/
theorem write_settings_is_merged_or_queued : Obligations.write_settings_is_merged_or_queued := by
  intro s
  refine ⟨fun served => State.requestSettings_served (s.store.unstartedSettings_iff.2 served), fun refused => ?_,
    fun sound opened scanned => ?_⟩
  · refine State.requestSettings_refused (.inl (Bool.eq_false_of_not_eq_true fun accepts => ?_))
    obtain ⟨sound, opened, scanned⟩ := (FolioStore.accepts_iff _).1 accepts
    simp [sound, opened, scanned] at refused
  · have accepts : s.store.accepts = true := (FolioStore.accepts_iff _).2 ⟨sound, opened, scanned⟩
    refine ⟨fun empty => ?_, fun full => State.requestSettings_refused (.inr full), fun waiting room unserved => ?_⟩
    · rw [State.requestSettings_asked (by simp [FolioStore.unstartedSettings, empty]) accepts (by simp [empty]),
        State.push_settings_starts empty]
    · have unstarted : s.store.unstartedSettings = false :=
        List.any_eq_false.2 fun q behind => by simp [unserved q behind]
      rw [State.requestSettings_asked unstarted accepts room, State.push, if_neg waiting]

/-! ## The removal of power (R135) -/

theorem FolioStore.cut_idle {f : FolioStore} (idle : f.queue = []) (k : Nat) : f.cut k = f := by
  rw [FolioStore.cut, idle]

theorem FolioStore.cut_flight {f : FolioStore} {q : QueuedOp} {rest : List QueuedOp} (flight : f.queue = q :: rest)
    (k : Nat) : f.cut k = f.programSteps q.op k := by rw [FolioStore.cut, flight]

/-- Settles O6: the cut's content is that of the attempt (`FolioStore.cut_flight`), which `programSteps_leaves` gives
field by field. -/
theorem power_removed_keeps_stored_content : Obligations.power_removed_keeps_stored_content := by
  intro s k powered
  have content : (s.powerRemoved k).store = (s.store.cut k).cold := rfl
  refine ⟨s.powerRemoved k, congrArg Host.Outcome.next (if_pos powered), rfl, rfl, rfl, rfl, rfl, rfl, rfl, rfl,
    fun idle => ?_, fun q rest flight => ?_⟩
  · rw [content, FolioStore.cut_idle idle]
    exact ⟨rfl, rfl⟩
  · rw [content, FolioStore.cut_flight flight]
    refine ⟨rfl, rfl, fun j erases => ?_, fun ⟨_, _, _, _, _, _, _, _, whole⟩ =>
      AttemptLeaves.same rfl rfl (s.store.programSteps_leaves whole q.op k)⟩
    rw [erases]
    exact ⟨rfl, rfl⟩

end Sys2Proof.Machine
end

section
/-!
PROOF. POLL and the frames it builds (O50).
-/

namespace Sys2Proof.Machine

/-! ## How a POLL is answered (R188) -/

section Poll

variable {s : State} {t : Target} {answer : State → State}

theorem State.pollTaken_noRoom (full : s.replyRoom = 0) : s.pollTaken answer = s := if_pos full

theorem State.pollTaken_busy (room : 0 < s.replyRoom) (busy : s.store.closing = true ∨ s.store.awaitingScan = true) :
    s.pollTaken answer = s.enqueue [.status (s.statusFrame 0)] :=
  (if_neg (by omega)).trans (if_pos (s.store.closingTest_iff.2 busy))

theorem State.pollTaken_free (room : 0 < s.replyRoom)
    (free : ¬ (s.store.closing = true ∨ s.store.awaitingScan = true)) : s.pollTaken answer = answer s :=
  (if_neg (by omega)).trans (if_neg (mt s.store.closingTest_iff.1 free))

theorem recordsCheck_none {first count : Nat} (formed : 1 ≤ first ∧ first ≤ 256 ∧ 1 ≤ count ∧ count ≤ 12) :
    recordsCheck first count = none := if_neg (by omega)

theorem recordsCheck_range {first count : Nat} (unformed : ¬ (1 ≤ first ∧ first ≤ 256 ∧ 1 ≤ count ∧ count ≤ 12)) :
    recordsCheck first count = some .range := if_pos (by omega)

theorem laneFormCheck_none {lane : Nat} (formed : lane ≤ 23) : laneFormCheck lane = none := if_neg (by omega)

theorem laneFormCheck_range {lane : Nat} (unformed : ¬ lane ≤ 23) : laneFormCheck lane = some .range :=
  if_pos (by omega)

/-- Every form of POLL makes check 1 first and is then taken by its room and the store's state. -/
theorem exec_poll {cmd : Instr} {check : Option Reason} (meant : Meant s t .poll)
    (polls : exec cmd s = s.act fun s => s.command t .poll (fun _ => check) (State.pollTaken answer)) :
    (check = some .range → exec cmd s = .next (s.refuse .poll .range))
      ∧ (check = none → exec cmd s = .next (s.pollTaken answer)) := by
  obtain ⟨awake, here, accepted⟩ := meant
  exact ⟨fun refused => polls.trans (State.act_refused awake here accepted refused),
    fun passes => polls.trans (State.act_taken awake here accepted passes)⟩

/-! ## The report marking (R191) -/

variable {target : RangeTarget} {numbers : List Nat}

theorem State.requestRange_refused (refused : s.store.fault = true ∨ 8 ≤ s.store.queue.length) :
    s.requestRange target numbers = s := by
  refine if_neg fun taken => ?_
  have room := FolioStore.room_of_accepts taken
  rcases refused with fault | full
  · simp [FolioStore.accepts, fault] at taken
  · omega

theorem State.requestRange_asked (accepts : s.store.accepts = true) (room : s.store.queue.length < 8) :
    s.requestRange target numbers = s.push (.advanceRange target numbers) :=
  if_pos (by rw [accepts, FolioStore.queueFull, decide_eq_false (by omega)]; rfl)

end Poll

/-- Settles O50: check 1 by `exec_poll`, the room and the store's state by the three ways a POLL is taken, and the
report marking by whether the store takes the ADVANCE RANGE. -/
theorem polls_build_their_frames : Obligations.polls_build_their_frames := by
  intro s t first count lane meant status l laneFrame record answers room busy formed listed built range sends asks
  obtain ⟨-, takenStatus⟩ := exec_poll (answer := State.answerStatus) (cmd := .pollStatus t) meant rfl
  obtain ⟨badRecords, takenRecords⟩ :=
    exec_poll (answer := State.answerRecords first count) (cmd := .pollRecords t first count) meant rfl
  obtain ⟨badLane, takenLane⟩ := exec_poll (answer := State.answerLane lane) (cmd := .pollLane t lane) meant rfl
  have asked {cmd : Instr} {valid : Prop} {answer : State → State}
      (refused : ¬ valid → exec cmd s = .next (s.refuse .poll .range))
      (taken : valid → exec cmd s = .next (s.pollTaken answer)) : asks cmd valid :=
    ⟨refused, fun h full => (taken h).trans (congrArg _ (State.pollTaken_noRoom full)),
      fun h fits busy => (taken h).trans (congrArg _ (State.pollTaken_busy fits busy))⟩
  have answersRecords (h : formed) (fits : 0 < room) (free : ¬ busy) :
      exec (.pollRecords t first count) s = .next (s.answerRecords first count) :=
    (takenRecords (recordsCheck_none h)).trans (congrArg _ (State.pollTaken_free fits free))
  have marks (unlisted : built ≠ []) :
      s.answerRecords first count = (sends.requestRange .reported (built.map (·.2))).finish := if_neg unlisted
  refine ⟨asked (fun h => absurd trivial h) fun _ => takenStatus rfl,
    asked (fun h => badRecords (recordsCheck_range h)) fun h => takenRecords (recordsCheck_none h),
    asked (fun h => badLane (laneFormCheck_range h)) fun h => takenLane (laneFormCheck_none h),
    fun fits => (takenStatus rfl).trans (congrArg _ ?_), fun h last => ?_, fun h two free => ?_,
    fun h fits free unlisted => (answersRecords h fits free).trans (congrArg _ (if_pos unlisted)),
    fun h fits free unlisted refused => ?_, fun h fits free unlisted sound queueRoom => ?_⟩
  · by_cases h : busy
    · exact State.pollTaken_busy fits h
    · exact State.pollTaken_free fits h
  · refine (takenLane (laneFormCheck_none h)).trans (congrArg _ ?_)
    by_cases shut : busy
    · exact State.pollTaken_busy (show 0 < room by omega) shut
    · exact (State.pollTaken_free (show 0 < room by omega) shut).trans (if_pos last)
  · have answered := (State.pollTaken_free (answer := State.answerLane lane) (show 0 < room by omega) free).trans
      (if_neg (show ¬ room = 1 by omega))
    exact (takenLane (laneFormCheck_none h)).trans (congrArg _ answered)
  · exact ⟨_, answersRecords h fits free, State.redecided_of_finish ((marks unlisted).trans
      (congrArg State.finish (State.requestRange_refused (s := sends) refused)))⟩
  · have accepts : sends.store.accepts = true := (FolioStore.accepts_iff _).2
      ⟨sound, Bool.eq_false_of_not_eq_true fun shut => free (.inl shut),
        Bool.eq_false_of_not_eq_true fun awaits => free (.inr awaits)⟩
    have joins := (marks unlisted).trans (congrArg State.finish (State.requestRange_asked accepts queueRoom))
    exact ⟨_, answersRecords h fits free,
      fun ⟨empty, idle⟩ => State.redecided_of_finish (joins.trans
        (congrArg State.finish (State.push_range_idle (s := sends) empty idle))),
      fun waits => State.redecided_of_finish (joins.trans
        (congrArg State.finish (State.push_range_joins (s := sends) waits)))⟩

end Sys2Proof.Machine
end

section
/-!
PROOF. What an operation outside a close has programmed at its completion OK (O53).
-/

namespace Sys2Proof.Machine

/-! ## All of an operation as the attempt that makes every step -/

/-- A number of steps that no operation of this form exceeds (R131 to R137). -/
def StoreOp.mostSteps : StoreOp → Nat
  | .append _ => 11
  | .advance _ _ => 5
  | .advanceRange _ ns => ns.length
  | .writeExtension _ _ => 1
  | .writeSettings _ _ => 14
  | .eraseSector _ => 1
  | .closeMark => 1

theorem opSteps_length_le (f : FolioStore) (op : StoreOp) : (opSteps f op).length ≤ op.mostSteps := by
  match op with
  | .append r =>
    simp only [opSteps, appendSteps]
    split <;> simp [commitSteps, StoreOp.mostSteps]
  | .advance n t =>
    simp only [opSteps, advanceSteps]
    split
    · simp
    · split <;> simp [commitSteps, StoreOp.mostSteps]
  | .advanceRange t ns =>
    simp only [opSteps, rangeSteps, List.length_map]
    exact List.length_filter_le _ ns
  | .writeExtension n m =>
    simp only [opSteps, extensionSteps]
    split <;> simp [StoreOp.mostSteps]
  | .writeSettings _ none => simp [opSteps]
  | .writeSettings _ (some (_, _)) => simp [opSteps, settingsSteps, StoreOp.mostSteps]
  | .eraseSector k => simp [opSteps, StoreOp.mostSteps]
  | .closeMark => simp [opSteps, StoreOp.mostSteps]

theorem FolioStore.programSteps_all (f : FolioStore) {op : StoreOp} (keeps : op.kind ≠ .eraseSector) :
    f.programSteps op op.mostSteps = f.programAll op := by
  have attempted : f.attempted op op.mostSteps = (opSteps f op).take op.mostSteps := by
    cases op with
    | eraseSector k => exact absurd rfl keeps
    | _ => rfl
  rw [FolioStore.programSteps, attempted, List.take_of_length_le (opSteps_length_le f op), FolioStore.programAll]

section Completes

variable {s : State} {q : QueuedOp} {rest : List QueuedOp} {op : StoreOp}

/-- Outside a close nothing but the operation's own content changes at its completion. -/
theorem State.opDone_content (opened : s.store.closing = false)
    (behind : ∀ q ∈ s.store.queue.drop 1, q.op.kind ≠ .eraseSector) :
    ContentSame (s.store.programAll op) (s.opDone op).store := by
  rcases s.opDone_cases op with awaits | ⟨u, stands, still, done⟩
  · rw [awaits]
    exact ⟨rfl, rfl⟩
  · obtain ⟨-, closing, -⟩ := s.store.programAll_keeps op
    have next := State.startNext_stands u.store.queue.length (stands.quiet (State.popped_quiet op behind))
    have goesOn := stands.trans next.finish
    rw [done, State.proceed_startNext op (still (closing.trans opened))]
    exact ⟨goesOn.sectors, goesOn.page⟩

/-- What the completion OK of an operation that its content does not bar leaves, field by field. -/
theorem State.completes_leaving (awake : Awake s) (sized : Sized s) (queue : s.store.queue = q :: rest)
    (opened : s.store.closing = false) (behind : ∀ x ∈ rest, x.op.kind ≠ .eraseSector) (form : q.op = op)
    (keeps : op.kind ≠ .eraseSector) (passes : s.store.contentFails q = false) :
    ∃ t, exec (completionCommand q.op.kind .ok) s = .next t ∧ AttemptLeaves s.store t.store op op.mostSteps := by
  obtain ⟨_, _, _, _, _, _, _, _, whole⟩ := sized
  subst form
  obtain ⟨sectors, page⟩ := State.opDone_content (op := q.op) opened (by rw [queue]; exact behind)
  have leaves := s.store.programSteps_leaves whole q.op q.op.mostSteps
  rw [s.store.programSteps_all keeps] at leaves
  exact ⟨s.opDone q.op, (exec_completion q.op .ok awake).trans (congrArg _ (State.completion_ok queue passes)),
    AttemptLeaves.same sectors page leaves⟩

end Completes

/-! ## What the content says of each form -/

/-- The content has not changed, seen from one slot. -/
theorem ContentSame.slotAlone {f g : FolioStore} (same : ContentSame f g) (n : Nat) : SlotAlone f g n (f.slot n) :=
  ⟨same.2, FolioStore.slot_congr same.1 n, fun m _ => FolioStore.slot_congr same.1 m⟩

theorem AdvanceTarget.not_blocked_iff (t : AdvanceTarget) (sl : Slot) : t.blocked sl = false ↔ sl.opened = true ∧
    match t with
    | .previewed => sl.committed = false
    | .committed _ => sl.previewed = false := by
  cases t <;> simp [AdvanceTarget.blocked]

/-- What a range leaves of a record of its set: marked if it is in a state that the range advances from (R132). -/
def RangeTarget.advanced (t : RangeTarget) (sl : Slot) : Slot := if t.applies sl then t.mark sl else sl

theorem RangeTarget.advanced_reported (sl : Slot) : RangeTarget.reported.advanced sl =
    if sl.state = .previewed ∨ sl.state = .committed then { sl with reported := true } else sl := by
  unfold RangeTarget.advanced RangeTarget.applies
  cases sl.state <;> simp [RangeTarget.mark]

theorem RangeTarget.advanced_settled (sl : Slot) : RangeTarget.settled.advanced sl =
    if sl.state = .reported then { sl with settled := true } else sl := by
  unfold RangeTarget.advanced RangeTarget.applies
  cases sl.state <;> simp [RangeTarget.mark]

/-- A range that makes every step, slot by slot. -/
theorem RangeLeaves.slots {f g : FolioStore} {t : RangeTarget} {ns : List Nat}
    (leaves : RangeLeaves f g t ns ns.length) :
    g.page = f.page ∧ ∀ n, g.slot n =
      if n ∈ ns ∧ (f.slot n).opened = true ∧ (f.slot n).folio = some f.folio then t.advanced (f.slot n)
      else f.slot n := by
  have found (states : List RecordState) (n : Nat) : n ∈ (ns.filter fun n => (f.slot n).opened
      && (f.slot n).folio == some f.folio && states.contains (f.slot n).state).take ns.length
      ↔ (n ∈ ns ∧ (f.slot n).opened = true ∧ (f.slot n).folio = some f.folio) ∧ (f.slot n).state ∈ states := by
    rw [List.take_of_length_le (List.length_filter_le _ _)]
    simp [and_assoc]
  obtain ⟨reports, settles⟩ := leaves
  cases t with
  | reported =>
    obtain ⟨page, slots⟩ := reports rfl
    refine ⟨page, fun n => ?_⟩
    rw [slots, if_congr (found _ n) rfl rfl, ite_and, RangeTarget.advanced_reported]
    simp
  | settled =>
    obtain ⟨page, slots⟩ := settles rfl
    refine ⟨page, fun n => ?_⟩
    rw [slots, if_congr (found _ n) rfl rfl, ite_and, RangeTarget.advanced_settled]
    simp

/-- Settles O53: a completion OK leaves what the attempt that makes every step leaves (`State.completes_leaving`), which
`AttemptLeaves` says field by field. -/
theorem completed_operation_programs_its_content : Obligations.completed_operation_programs_its_content := by
  intro s q rest awake sized queue opened behind op gives only isOpen bought
  have completes {o : StoreOp} (form : op = o) (keeps : o.kind ≠ .eraseSector)
      (passes : s.store.contentFails q = false) : gives fun g => AttemptLeaves s.store g o o.mostSteps :=
    State.completes_leaving awake sized queue opened behind form keeps passes
  have advances {n : Nat} {t : AdvanceTarget} (form : op = .advance n t)
      (free : t.blocked (s.store.slot n) = false) : gives fun g => AdvanceLeaves s.store g n t 5 :=
    completes form (by simp [StoreOp.kind]) (by simp [FolioStore.contentFails, show q.op = _ from form, free])
  have extends_ {n m : Nat} (form : op = .writeExtension n m) (held : bought (s.store.slot n))
      (free : (s.store.slot n).extension = none ∨ q.wrote = true) :
      gives fun g => ExtensionLeaves s.store g n m 1 := by
    obtain ⟨opens, folio, committed⟩ := held
    refine completes form (by simp [StoreOp.kind]) ?_
    rcases free with free | wrote
    · simp [FolioStore.contentFails, show q.op = _ from form, FolioStore.isPurchase, Slot.isRecordOf, opens, folio,
        committed, free]
    · simp [FolioStore.contentFails, show q.op = _ from form, FolioStore.isPurchase, Slot.isRecordOf, opens, folio,
        committed, wrote]
  refine ⟨fun r form low high blank => ?_, fun n form opens => ?_, fun n c form opens price tax charge time => ?_,
    fun n a form opens found => ?_, fun a ns form => ?_, fun n m form held free => ?_,
    fun n m form held written wrote => ?_, fun b n v form => ?_⟩
  · obtain ⟨t, run, leaves⟩ := completes form (by simp [StoreOp.kind])
      (by simp [FolioStore.contentFails, show q.op = _ from form])
    obtain ⟨opening, commits⟩ := leaves _ blank low high (.inl rfl) (.inl rfl) (.inl rfl) (.inl rfl) (.inl rfl)
      (.inl rfl)
    refine ⟨t, run, ?_⟩
    cases commit : r.commit with
    | none => exact opening commit
    | some c => exact commits c commit ⟨.inl rfl, .inl rfl, .inl rfl, .inl rfl⟩
  · obtain ⟨marked, unpreviewed, uncommitted⟩ := opens
    obtain ⟨t, run, leaves⟩ := advances form ((AdvanceTarget.not_blocked_iff _ _).2 ⟨marked, uncommitted⟩)
    exact ⟨t, run, (leaves _ rfl).2.1 ⟨marked, unpreviewed, uncommitted⟩ rfl⟩
  · obtain ⟨marked, unpreviewed, uncommitted⟩ := opens
    obtain ⟨t, run, leaves⟩ := advances form ((AdvanceTarget.not_blocked_iff _ _).2 ⟨marked, unpreviewed⟩)
    exact ⟨t, run, (leaves _ rfl).2.2 c ⟨marked, unpreviewed, uncommitted⟩ rfl
      ⟨.inl price, .inl tax, .inl charge, .inl time⟩⟩
  · have free : a.blocked (s.store.slot n) = false := by
      rcases found with ⟨rfl, -, uncommitted⟩ | ⟨⟨c, rfl⟩, -, unpreviewed⟩
      · exact (AdvanceTarget.not_blocked_iff _ _).2 ⟨opens, uncommitted⟩
      · exact (AdvanceTarget.not_blocked_iff _ _).2 ⟨opens, unpreviewed⟩
    obtain ⟨t, run, leaves⟩ := advances form free
    obtain ⟨same, -⟩ := leaves _ rfl
    refine ⟨t, run, ContentSame.slotAlone (same ?_) n⟩
    rintro ⟨-, unpreviewed, uncommitted⟩
    rcases found with ⟨-, previewed, -⟩ | ⟨-, committed, -⟩
    · exact absurd previewed (by simp [unpreviewed])
    · exact absurd committed (by simp [uncommitted])
  · obtain ⟨t, run, leaves⟩ := completes form (by simp [StoreOp.kind])
      (by simp [FolioStore.contentFails, show q.op = _ from form])
    obtain ⟨page, slots⟩ := RangeLeaves.slots leaves
    refine ⟨t, run, page, fun n => (slots n).trans ?_⟩
    cases a with
    | reported => rw [RangeTarget.advanced_reported]
    | settled => rw [RangeTarget.advanced_settled]
  · obtain ⟨opens, folio, committed⟩ := held
    obtain ⟨t, run, leaves⟩ := extends_ form ⟨opens, folio, committed⟩ (.inl free)
    exact ⟨t, run, (leaves _ rfl).1 ⟨opens, folio, committed, free⟩⟩
  · obtain ⟨t, run, leaves⟩ := extends_ form held (.inr wrote)
    exact ⟨t, run, ContentSame.slotAlone ((leaves _ rfl).2 fun ⟨_, _, _, free⟩ => written free) n⟩
  · obtain ⟨t, run, sectors, -, page⟩ := completes form (by simp [StoreOp.kind])
      (by simp [FolioStore.contentFails, show q.op = _ from form])
    exact ⟨t, run, sectors, page (by simp [StoreOp.mostSteps])⟩

end Sys2Proof.Machine
end

section
/-!
PROOF. The close sequence (O54).
-/

namespace Sys2Proof.Machine

/-! ## A close goes on to its next operation (R136, R140) -/

section Close

variable {s : State} {q : QueuedOp} {rest : List QueuedOp}

theorem State.startHead_eq (queue : s.store.queue = q :: rest) : s.startHead =
    { s with store := { s.store.onStart q.op with queue := { q with op := q.op.started s } :: rest } } := by
  rw [State.startHead, queue]

theorem State.startHead_empty (empty : s.store.queue = []) : s.startHead = s := by rw [State.startHead, empty]

/-- With no number waiting for room the room stays. -/
theorem State.fillRoom_nothing (marked : s.buying.marking = []) (listed : s.store.scanList = []) : s.fillRoom = s := by
  have marking : s.takeMarking = s := by rw [State.takeMarking, marked]
  rw [State.fillRoom, marking, State.takeScanList, listed]

/-- Nobody asked for an operation of a close. -/
theorem State.requesterOk_ofClose {op : StoreOp} (own : op.ofClose = true) (s : State) : s.requesterOk op = s := by
  cases op with
  | append _ | advance _ _ | advanceRange _ _ | writeExtension _ _ => cases own
  | _ => rfl

/-- What an operation takes at its start does not change with the content. -/
theorem StoreOp.started_completed (s : State) (op done : StoreOp) (rest : List QueuedOp) :
    op.started (s.completed done rest) = op.started s := by
  have folio : (s.completed done rest).store.folio = s.store.folio := (s.store.programAll_keeps done).2.2.2.1
  cases op with
  | writeSettings ending values => rw [StoreOp.started, folio]; rfl
  | _ => rfl

/-- An operation of a close completes and the next in its queue starts. -/
theorem State.opDone_goesOn {op next : StoreOp} {more : List QueuedOp} (queue : s.store.queue = q :: rest)
    (closing : s.store.closing = true) (scanned : s.store.awaitingScan = false) (own : op.ofClose = true)
    (ordinary : op.isEnding = false) (follows : rest = next.queued :: more)
    (busy : (s.completed op rest).store.idleRange next = false) :
    s.opDone op = State.finish { s with store :=
      { (s.completed op rest).store.onStart next with queue := (next.started s).queued :: more } } := by
  have still : (s.completed op rest).store.closing = true := (s.store.programAll_keeps op).2.1.trans closing
  have refused : (s.completed op rest).store.accepts = false := by
    simp [FolioStore.accepts, FolioStore.closingTest, still]
  have waits : (s.completed op rest).store.queue = next.queued :: more := follows
  rw [State.opDone_served queue scanned ordinary, State.requesterOk_ofClose own, State.fillRoom_refused refused,
    State.proceed, if_neg (by simp [own]), State.startNext_busy, State.startHead_eq waits,
    StoreOp.started_completed]
  · rfl
  · intro x behind first
    rw [waits] at first
    cases first
    rw [← FolioStore.idleRange_iff, busy]
    exact Bool.false_ne_true

/-- The ending write leaves an idle store (R140). -/
theorem State.opDone_ends {op : StoreOp} (queue : s.store.queue = [q]) (scanned : s.store.awaitingScan = false)
    (ending : op.isEnding = true) (marked : s.buying.marking = []) (listed : s.store.scanList = []) :
    s.opDone op = (s.completed op []).closeEnds.finish := by
  obtain ⟨awaits, -, -, -, list⟩ := s.store.programAll_keeps op
  have own : op.ofClose = true := by
    cases op with
    | writeSettings _ _ => exact ending
    | _ => cases ending
  have filled : (s.completed op []).closeEnds.fillRoom = (s.completed op []).closeEnds :=
    State.fillRoom_nothing marked (list.trans listed)
  have present : ¬ (s.completed op []).store.awaitingScan = true := by
    rw [Bool.not_eq_true]
    exact awaits.trans scanned
  unfold State.opDone
  dsimp only
  rw [State.popOp_programmed queue, if_neg present, if_pos ending, State.requesterOk_ofClose own, filled,
    State.proceed_startNext op rfl]
  exact congrArg State.finish (State.startHead_empty rfl)

/-- The store that the ending write leaves, and what it keeps of the rest (R140). -/
theorem State.closed_facts {op : StoreOp} (scanned : s.store.awaitingScan = false) :
    let t := (s.completed op []).closeEnds
    t.store.folio = (if s.store.folio = 65535 then 1 else s.store.folio + 1) ∧ t.store.state = .ready
      ∧ (t.reply.flags = s.reply.flags ||| NoticeFlag.closeDone.set ∧ t.buying = s.buying ∧ t.meters = s.meters)
      ∧ t.store.nextRecord = 1 ∧ t.store.closing = false ∧ t.store.fault = false ∧ t.store.queue = []
      ∧ t.store.resumed = false := by
  obtain ⟨awaits, -, -, folio, -⟩ := s.store.programAll_keeps op
  refine ⟨?_, ?_, ⟨rfl, rfl, rfl⟩, rfl, rfl, rfl, rfl, rfl⟩
  · show nextFolio (s.store.programAll op).folio = _
    rw [folio, nextFolio]
  · simp [FolioStore.state, State.closeEnds, State.completed, awaits, scanned]

end Close

/-- Settles O54: an operation of a close completes and the next starts (`State.opDone_goesOn`), and the ending write
ends the close (`State.opDone_ends`). -/
theorem close_sequence_ends_the_folio : Obligations.close_sequence_ends_the_folio := by
  intro s q rest awake queue closing scanned marked listed op next leaves
  have completes (passes : s.store.contentFails q = false) :
      exec (completionCommand op.kind .ok) s = .next (s.opDone op) :=
    (exec_completion op .ok awake).trans (congrArg _ (State.completion_ok queue passes))
  have goesOn {o n : StoreOp} {more : List QueuedOp} (form : op = o) (own : o.ofClose = true)
      (ordinary : o.isEnding = false) (follows : next n more) (busy : (s.completed o rest).store.idleRange n = false) :
      leaves { (s.completed o rest).store.onStart n with queue := (n.started s).queued :: more } := by
    have form : q.op = o := form
    have passes : s.store.contentFails q = false := by
      unfold FolioStore.contentFails
      rw [form]
      cases o with
      | advance _ _ | writeExtension _ _ => cases own
      | _ => rfl
    subst form
    exact ⟨s.opDone q.op, completes passes, State.redecided_of_finish
      (State.opDone_goesOn queue closing scanned own ordinary follows busy)⟩
  refine ⟨fun more form follows => ?_, fun k j more form follows => ?_, fun k more form follows => ?_,
    fun n v form last => ?_⟩
  · exact follows ▸ goesOn form rfl rfl follows rfl
  · exact follows ▸ goesOn form rfl rfl follows rfl
  · exact goesOn form rfl rfl follows rfl
  · let ending : StoreOp := .writeSettings true (some (n, v))
    have form : q.op = ending := form
    have run := completes (by simp [FolioStore.contentFails, form, ending])
    rw [show op = ending from form] at run
    have done := State.opDone_ends (op := ending) (last ▸ queue) scanned rfl marked listed
    obtain ⟨sectors, -, written⟩ : SettingsLeaves s.store (s.store.programAll ending) n v 14 := by
      rw [← s.store.programSteps_all (by simp [ending, StoreOp.kind])]
      exact s.store.settings_leaves true n v 14
    have page := written (by decide)
    obtain ⟨folio, ready, kept, nextRecord, opened, sound, empty, current⟩ := State.closed_facts (op := ending) scanned
    exact ⟨(s.completed ending []).closeEnds, s.opDone ending, run, State.redecided_of_finish done, folio, nextRecord,
      opened, sound, empty, ready, current, sectors, congrArg Page.folio page, congrArg Page.validMark page,
      congrArg Page.closeMark page, congrArg Page.standing page, kept⟩

end Sys2Proof.Machine
end

section
/-!
PROOF. The scan, at power-on and after a RESTART (O5).
-/

namespace Sys2Proof.Machine

/-! ## What the scan reads from the content (R125, R138, R141) -/

section Content

variable {f : FolioStore}

theorem FolioStore.scanFolio_page {n : Nat} (written : f.page.folio = some n) : f.scanFolio = n := by
  rw [FolioStore.scanFolio, written]

/-- Without the page's folio number the lowest-numbered record's counts. -/
theorem FolioStore.scanFolio_record (unwritten : f.page.folio = none) {as bs : List (Slot × Nat)} {x : Slot × Nat}
    (slots : f.slots = as ++ x :: bs) (opened : x.1.opened = true) (lowest : ∀ y ∈ as, y.1.opened = false) {n : Nat}
    (folio : x.1.folio = some n) : f.scanFolio = n := by
  have before : as.find? (fun p => p.1.opened) = none := List.find?_eq_none.2 fun y hy => by simp [lowest y hy]
  rw [FolioStore.scanFolio, unwritten, slots]
  dsimp only
  rw [List.find?_append, before, Option.none_or, List.find?_cons_of_pos (p := fun q : Slot × Nat => q.1.opened) opened,
    Option.bind_some, folio, Option.getD_some]

theorem FolioStore.scanFolio_first (unwritten : f.page.folio = none) (unopened : ∀ p ∈ f.slots, p.1.opened = false) :
    f.scanFolio = 1 := by
  have absent : f.slots.find? (fun p => p.1.opened) = none := List.find?_eq_none.2 fun p hp => by simp [unopened p hp]
  rw [FolioStore.scanFolio, unwritten]
  dsimp only
  rw [absent, Option.bind_none, Option.getD_none]

/-- The number of the last slot that is not erased, of slots in ascending order above n; else n. -/
theorem foldl_lastWritten {xs : List (Slot × Nat)} (ascending : xs.Pairwise fun x y => x.2 < y.2) {n : Nat}
    (above : ∀ x ∈ xs, n ≤ x.2) :
    let m := xs.foldl (fun n p => if p.1 = Slot.erased then n else p.2) n
    n ≤ m ∧ (∀ p ∈ xs, p.1 ≠ Slot.erased → p.2 ≤ m) ∧ (m = n ∨ ∃ p ∈ xs, p.1 ≠ Slot.erased ∧ p.2 = m) := by
  induction xs generalizing n with
  | nil => simp
  | cons x xs ih =>
    obtain ⟨first, rest⟩ := List.pairwise_cons.1 ascending
    have low : n ≤ x.2 := above x List.mem_cons_self
    rw [List.foldl_cons]
    by_cases blank : x.1 = Slot.erased
    · rw [if_pos blank]
      obtain ⟨least, bounds, last⟩ := ih rest (n := n) fun y hy => above y (List.mem_cons_of_mem _ hy)
      refine ⟨least, fun p member written => ?_, last.imp_right fun ⟨p, member, found⟩ =>
        ⟨p, List.mem_cons_of_mem _ member, found⟩⟩
      rcases List.mem_cons.1 member with rfl | member
      · exact absurd blank written
      · exact bounds p member written
    · rw [if_neg blank]
      obtain ⟨least, bounds, last⟩ := ih rest (n := x.2) fun y hy => Nat.le_of_lt (first y hy)
      refine ⟨low.trans least, fun p member written => ?_, .inr ?_⟩
      · rcases List.mem_cons.1 member with rfl | member
        · exact least
        · exact bounds p member written
      · rcases last with same | ⟨p, member, found⟩
        · exact ⟨x, List.mem_cons_self, blank, same.symm⟩
        · exact ⟨p, List.mem_cons_of_mem _ member, found⟩

/-- The next record number is one above the highest slot that holds a programmed field (R125). -/
theorem FolioStore.scanNext_facts (f : FolioStore) : (∀ p ∈ f.slots, p.1 ≠ Slot.erased → p.2 < f.scanNext)
    ∧ (f.scanNext = 1 ∨ ∃ p ∈ f.slots, p.1 ≠ Slot.erased ∧ p.2 + 1 = f.scanNext) := by
  obtain ⟨-, bounds, last⟩ := foldl_lastWritten f.slots_ascending (n := 0) fun x _ => Nat.zero_le _
  exact ⟨fun p member written => Nat.lt_succ_of_le (bounds p member written), last.imp (congrArg (· + 1))
    fun ⟨p, member, written, same⟩ => ⟨p, member, written, congrArg (· + 1) same⟩⟩

theorem FolioStore.openedNumbers_ascending (f : FolioStore) : f.openedNumbers.Pairwise (· < ·) :=
  List.pairwise_map.2 ((f.slots_ascending.filter _).filter _)

/-- The OPENED records of the current folio (R141 step 3). -/
theorem FolioStore.mem_openedNumbers (standing : f.resumed = false) (n : Nat) : n ∈ f.openedNumbers ↔
    ∃ sl, (sl, n) ∈ f.slots ∧ sl.opened = true ∧ sl.folio = some f.folio ∧ sl.state = .opened := by
  simp only [FolioStore.openedNumbers, FolioStore.records_standing standing, List.mem_map, List.mem_filter,
    Slot.isRecordOf, Bool.and_eq_true, beq_iff_eq]
  constructor
  · rintro ⟨⟨sl, _⟩, ⟨⟨member, opened, folio⟩, state⟩, rfl⟩
    exact ⟨sl, member, opened, folio, state⟩
  · rintro ⟨sl, member, opened, folio, state⟩
    exact ⟨(sl, n), ⟨⟨member, opened, folio⟩, state⟩, rfl⟩

end Content

/-! ## What the scan queues (R141, R142) -/

/-- An operation that is no ADVANCE RANGE does not complete as it starts. -/
theorem FolioStore.idleRange_plain (f : FolioStore) {op : StoreOp} (h : op.kind ≠ .advanceRange) :
    f.idleRange op = false := by
  cases op with
  | advanceRange t ns => exact absurd rfl h
  | _ => rfl

/-- Operations that erase nothing join an empty queue, the first of them in flight at once. -/
theorem State.pushAll_begun {ops : List StoreOp} {s : State} (empty : s.store.queue = [])
    (keep : ∀ op ∈ ops, op.kind ≠ .eraseSector) (busy : ∀ op ∈ ops, s.store.idleRange op = false) :
    s.pushAll ops = { s with store := { s.store with queue := begunQueue s (ops.map StoreOp.queued) } } := by
  cases ops with
  | nil =>
    have same : begunQueue s [] = s.store.queue := empty.symm
    show s = _
    rw [List.map_nil, same]
  | cons op rest =>
    rw [State.pushAll_starts op rest s empty (busy op List.mem_cons_self),
      FolioStore.onStart_plain _ (keep op List.mem_cons_self)]
    rfl

/-- An ADVANCE takes nothing at its start. -/
theorem begunQueue_advancing (s : State) (ns : List Nat) : begunQueue s (ns.map advancing) = ns.map advancing := by
  cases ns <;> rfl

/-- s with the page read: the folio number and the standing settings (R138, R141 step 1). -/
def State.pageRead (s : State) : State :=
  State.withStanding s.store.page.standing
    { s with store := { s.store with
      folio := s.store.scanFolio, fault := false, awaitingScan := false, resumed := false } }

/-- s with the page read and a close resumed or the records read, ahead of a restoration and the view decision. -/
def State.scanRead (s : State) : State :=
  if s.store.page.closeMark then s.pageRead.resumeClose else s.pageRead.scanRecords

theorem State.scanned_read (s : State) : s.scanned = State.finish (if s.scanRead.store.restoreWaiting then
    State.restoreRentals { s.scanRead with store := { s.scanRead.store with restoreWaiting := false } }
    else s.scanRead) := rfl

/-- The sectors that a resumed close has still to erase (R142). -/
def FolioStore.unerased (f : FolioStore) : List Nat := [0, 1, 2, 3].filter fun k => !(f.sector k).whollyErased

section Read

variable {s : State}

/-- A close is resumed: its erases and its ending write are queued, the first of them in flight. -/
theorem State.scanRead_resumes (marked : s.store.page.closeMark = true) : s.scanRead = { s.pageRead with store :=
    { s.pageRead.store with
      closing := true, resumed := true, nextRecord := 1, scanList := []
      queue := erasing s.store.unerased s.store.scanFolio s.store.page.standing
      sectors := s.store.unerased.head?.elim s.store.sectors fun k => s.store.sectors.set k Sector.voided } } := by
  have queued : s.pageRead.store.resumedCloseOps =
      s.store.unerased.map StoreOp.eraseSector ++ [.writeSettings true none] := rfl
  rw [State.scanRead, if_pos marked, State.resumeClose, queued]
  cases s.store.unerased with
  | nil => exact State.pushAll_starts _ _ _ rfl rfl
  | cons k more =>
    rw [List.map_cons, List.cons_append, State.pushAll_starts _ _ _ rfl rfl]
    simp [erasing, StoreOp.started, FolioStore.onStart, Function.comp_def, State.pageRead, State.withStanding]

/-- The records are read: the ADVANCEs of the OPENED ones are queued as far as there is room, and a WRITE SETTINGS for a
page that held none. -/
theorem State.scanRead_records (unmarked : s.store.page.closeMark = false) :
    let ns := s.pageRead.store.openedNumbers
    let room := if s.store.page.validMark then 8 else 7
    s.scanRead = { s.pageRead with store := { s.pageRead.store with
      nextRecord := s.store.scanNext, closing := false, scanList := ns.drop room
      queue := begunQueue s.pageRead ((ns.take room).map advancing
        ++ if s.store.page.validMark then [] else [(StoreOp.writeSettings false none).queued]) } } := by
  intro ns room
  let ops := (ns.take room).map (fun n => StoreOp.advance n .previewed)
    ++ if s.store.page.validMark then [] else [.writeSettings false none]
  have kinds : ∀ op ∈ ops, op.kind = .advance ∨ op.kind = .writeSettings := by
    intro op member
    rcases List.mem_append.1 member with advance | write
    · obtain ⟨n, -, rfl⟩ := List.mem_map.1 advance
      exact .inl rfl
    · split at write
      · cases write
      · rw [List.mem_singleton.1 write]
        exact .inr rfl
  have queued : ops.map StoreOp.queued = (ns.take room).map advancing
      ++ if s.store.page.validMark then [] else [(StoreOp.writeSettings false none).queued] := by
    rw [List.map_append, List.map_map, apply_ite (List.map StoreOp.queued)]
    rfl
  rw [State.scanRead, if_neg (by simp [unmarked]), ← queued]
  refine (State.pushAll_begun (ops := ops) rfl (fun op member => ?_) fun op member => ?_).trans ?_
  · rcases kinds op member with h | h <;> simp [h]
  · exact FolioStore.idleRange_plain _ (by rcases kinds op member with h | h <;> simp [h])
  · rw [begunQueue_congr (s := s.pageRead)] <;> rfl

end Read

/-! ## What is found -/

/-- Of the state the scan reads, the page and the sectors alone decide what is found. -/
theorem ScanFound.of_cold {s u : State} (found : ScanFound s.cold u) : ScanFound s u := { found with }

/-- Whatever is found, the page is read, and the rest of the part is as the page leaves it. -/
theorem State.scanRead_eq (s : State) : ∃ f : FolioStore, s.scanRead = { s.pageRead with store := f }
    ∧ f.folio = s.store.scanFolio ∧ f.page = s.store.page ∧ f.fault = false ∧ f.awaitingScan = false
    ∧ f.restoreWaiting = s.store.restoreWaiting ∧ f.closing = s.store.page.closeMark := by
  by_cases marked : s.store.page.closeMark = true
  · exact ⟨_, State.scanRead_resumes marked, rfl, rfl, rfl, rfl, rfl, marked.symm⟩
  · have unmarked := Bool.eq_false_of_not_eq_true marked
    exact ⟨_, State.scanRead_records unmarked, rfl, rfl, rfl, rfl, rfl, unmarked.symm⟩

/-- The queue that a scan leaves for a page that held no settings: its WRITE SETTINGS starts at once where no ADVANCE
stands ahead of it (R136, R141 step 4). -/
theorem begunQueue_settings (s : State) (ns : List Nat) :
    begunQueue s ((ns.take 7).map advancing ++ [(StoreOp.writeSettings false none).queued]) =
      (ns.take 7).map advancing
        ++ [(StoreOp.writeSettings false (if ns = [] then some (s.store.folio, s.standing) else none)).queued] := by
  cases ns <;> rfl

section Found

variable {s : State}

theorem State.scanRead_unerased (marked : s.store.page.closeMark = true) : (s.store.unerased = [] →
    s.scanRead.store.sectors = s.store.sectors) ∧ ∀ k more, s.store.unerased = k :: more →
      s.scanRead.store.sectors = s.store.sectors.set k Sector.voided := by
  have sectors := congrArg (·.store.sectors) (State.scanRead_resumes marked)
  exact ⟨fun done => sectors.trans (by simp [done]), fun k more left => sectors.trans (by simp [left])⟩

/-- The ADVANCEs and the WRITE SETTINGS that the scan of records queues. -/
theorem State.scanRead_opened (unmarked : s.store.page.closeMark = false) :
    let u := s.scanRead
    let ns := s.pageRead.store.openedNumbers
    (s.store.page.validMark = true → u.store.queue = (ns.take 8).map advancing ∧ u.store.scanList = ns.drop 8)
    ∧ (s.store.page.validMark = false → u.store.scanList = ns.drop 7 ∧ u.store.queue = (ns.take 7).map advancing
        ++ [(StoreOp.writeSettings false
          (if ns = [] then some (s.store.scanFolio, s.store.page.standing) else none)).queued]) := by
  intro u ns
  have read : u = _ := State.scanRead_records unmarked
  rw [read]
  refine ⟨fun held => ?_, fun blank => ?_⟩
  · simp only [held, if_true, List.append_nil]
    exact ⟨begunQueue_advancing _ _, rfl⟩
  · simp only [blank, Bool.false_eq_true, if_false]
    exact ⟨rfl, begunQueue_settings _ _⟩

end Found

theorem State.scanRead_found (s : State) : ScanFound s s.scanRead := by
  obtain ⟨f, read, folio, page, fault, scanned, -, closing⟩ := s.scanRead_eq
  have store : s.scanRead.store = f := by rw [read]
  have number : s.scanRead.store.folio = s.store.scanFolio := store ▸ folio
  have standing : s.scanRead.standing = s.store.page.standing := by rw [read]; rfl
  exact {
    fault := store ▸ fault
    scanned := store ▸ scanned
    pageFolio := fun n written => number.trans (FolioStore.scanFolio_page written)
    lowestFolio := fun unwritten as x bs slots opened lowest n h =>
      number.trans (FolioStore.scanFolio_record unwritten slots opened lowest h)
    firstFolio := fun unwritten unopened => number.trans (FolioStore.scanFolio_first unwritten unopened)
    noStanding := fun blank => standing.trans (if_neg (by simp [blank]))
    standing := standing
    stay := by rw [read]; exact ⟨rfl, rfl⟩
    credit := by rw [read]; rfl
    page := store ▸ page
    closing := store ▸ closing
    resumed := fun marked => by
      obtain ⟨whole, voided⟩ := State.scanRead_unerased marked
      have resumes := State.scanRead_resumes marked
      have resumed : s.scanRead.store.resumed = true := congrArg (·.store.resumed) resumes
      have uncounted := FolioStore.records_resumed resumed
      refine ⟨resumed, uncounted, by simp [FolioStore.folioTotal, uncounted], by simp [State.dayCharges, uncounted],
        congrArg (·.store.nextRecord) resumes, congrArg (·.store.scanList) resumes, ?_, whole, voided⟩
      rw [number, standing]
      exact congrArg (·.store.queue) resumes
    content := fun unmarked => by
      rw [State.scanRead_records unmarked]
      exact ⟨rfl, rfl⟩
    next := fun unmarked => by
      rw [State.scanRead_records unmarked]
      exact s.store.scanNext_facts
    opened := fun unmarked => by
      rw [number, standing]
      exact ⟨_, FolioStore.openedNumbers_ascending _,
        fun n => FolioStore.mem_openedNumbers (f := s.pageRead.store) rfl n, State.scanRead_opened unmarked⟩ }

/-! ## SCAN (R144) -/

/-- SCAN does not arise at any other time (log entry 4). -/
theorem State.scan_idle {s : State} (idle : s.store.awaitingScan = false ∨ s.store.queue ≠ []) : s.scan = s := by
  refine if_neg fun waits => ?_
  rw [Bool.and_eq_true, List.isEmpty_iff] at waits
  rcases idle with scanned | busy
  · exact absurd waits.1 (by simp [scanned])
  · exact busy waits.2

theorem State.scan_waiting {s : State} (awaits : s.store.awaitingScan = true) (empty : s.store.queue = []) :
    s.scan = s.scanned := if_pos (by rw [awaits, empty]; rfl)

/-- Settles O5: the scan reads the page and the slots (`State.scanRead_found`), then makes a restoration that waits and
takes the view decision (`State.scanned_read`). -/
theorem scan_reads_page_and_slots : Obligations.scan_reads_page_and_slots := by
  have finished (s : State) (idle : s.scanRead.store.restoreWaiting = false) : s.scanned = s.scanRead.finish :=
    s.scanned_read.trans (congrArg State.finish (if_neg (by simp [idle])))
  refine ⟨fun s => ?_, fun s awake => ⟨fun awaits empty => ?_, fun idle => ?_⟩⟩
  · obtain ⟨f, read, -, -, -, -, waiting, -⟩ := s.cold.scanRead_eq
    have idle : s.cold.scanRead.store.restoreWaiting = false := by rw [read]; exact waiting
    exact ⟨s.cold.scanRead, s.cold.scanned, rfl, ScanFound.of_cold s.cold.scanRead_found,
      State.redecided_of_finish (finished s.cold idle)⟩
  · obtain ⟨f, read, -, -, -, -, waiting, -⟩ := s.scanRead_eq
    have kept : s.scanRead.store.restoreWaiting = s.store.restoreWaiting := by rw [read]; exact waiting
    refine ⟨s.scanRead, s.scanned, (State.act_awake _ s awake).trans (congrArg _ (State.scan_waiting awaits empty)),
      s.scanRead_found, ?_, ?_, ?_, ?_, ?_, ?_, ?_, ?_, ?_, ?_, kept,
      fun idle => State.redecided_of_finish (finished s (kept.trans idle)), fun waits => State.redecided_of_finish
        (s.scanned_read.trans (congrArg State.finish (if_pos (kept.trans waits))))⟩
    all_goals
      rw [read]
      rfl
  · exact (State.act_awake _ s awake).trans (congrArg _ (State.scan_idle idle))

end Sys2Proof.Machine
end

section
/-!
PROOF. The keypad line (O35), the key frames that only touch (O36), and the keys that name a channel (O37).
-/

namespace Sys2Proof.Machine

/-! ## Key frames by their code (R145 to R147, R186) -/

/-- A key command is a good frame of its code. -/
theorem exec_keyCommand (code : Nat) (held : Bool) (s : State) :
    exec (keyCommand code held) s = s.takeFrame code held := by
  unfold keyCommand
  split
  case h_8 =>
    split
    · rfl
    · rfl
  all_goals rfl

theorem State.frameTouches_eq (code : Nat) {s : State} (apart : s.keypad.restarted = false) :
    s.frameTouches code = s.keyed code s.keypad.digits := by
  simp [State.frameTouches, State.touchKeys, State.keyed, apart]

/-- A code 17..127 names no key (R146). -/
theorem State.keyAction_unassigned {code : Nat} (high : 17 ≤ code) (s : State) : s.keyAction code = s := by
  unfold State.keyAction
  split
  case h_8 => exact if_neg (by omega)
  all_goals omega

theorem Keypad.acts_iff (k : Keypad) (code : Nat) (held : Bool) :
    k.acts code held = true ↔ held = false ∨ (code = 11 ∨ code = 12) ∧ k.lastKey = some code := by
  simp [Keypad.acts]

/-- A frame that does not act, or whose code names no key, only touches (R146, R147). -/
theorem State.keyFrame_touches {code : Nat} {held : Bool} {s : State}
    (idle : 17 ≤ code ∨ s.keypad.acts code held = false) : s.keyFrame code held = s.frameTouches code := by
  unfold State.keyFrame
  split
  case isTrue acts =>
    have high : 17 ≤ code := idle.resolve_right (by simp [acts])
    rw [State.keyAction_unassigned high]
    rfl
  case isFalse => rfl

/-- A held frame that acts does what a frame that is not held does. -/
theorem State.takeFrame_acts {code : Nat} {held : Bool} {s : State} (awake : Awake s)
    (acts : s.keypad.acts code held = true) : s.takeFrame code held = s.takeFrame code false := by
  rw [State.takeFrame_awake code held s awake, State.takeFrame_awake code false s awake, State.keyFrame, if_pos acts]
  rfl

/-- With nothing due, catching up ends only that a frame arrives together with a RESTART (log entry 44). -/
theorem State.catchUp_idle {s : State} (nothing : s.due = []) :
    s.catchUp = { s with keypad := { s.keypad with restarted := false } } := by
  unfold State.catchUp
  rw [nothing, List.foldl_nil, ← nothing]

/-- Settles O36: a frame behind a RESTART touches (`State.takeFrame_restarted`), and so does one that does not act or
names no key (`State.keyFrame_touches`). -/
theorem held_and_unassigned_frames_only_touch : Obligations.held_and_unassigned_frames_only_touch := by
  intro s code held powered nothing _ idle
  refine ⟨?_, by cases entry : s.lock.entry <;> simp [State.keyed, PinEntry.touched, entry]⟩
  rw [exec_keyCommand]
  cases restarted : s.keypad.restarted with
  | true =>
    rw [State.takeFrame_restarted code held s restarted, State.act, if_pos powered, State.catchUp_idle nothing,
      State.frameTouches_eq code rfl]
    rfl
  | false =>
    have still : 17 ≤ code ∨ s.keypad.acts code held = false := by
      rw [Bool.eq_false_iff, ne_eq, Keypad.acts_iff]
      rcases idle with arrived | high | ⟨isHeld, other⟩
      · cases restarted.symm.trans arrived
      · exact .inl high
      · exact .inr (by simpa [isHeld] using other)
    rw [State.takeFrame_awake code held s ⟨powered, nothing, restarted⟩, State.keyFrame_touches still,
      State.frameTouches_eq code restarted]

/-! ## The keypad line (R145, R198) -/

/-- The frame of two bytes: the held flag is the top bit of the first and the code its other seven (section 12.3). -/
theorem frameOf_eq (a b : Byte) : frameOf a b = (decide (128 ≤ a.toNat), a.toNat % 128,
    (a.toNat / 16 + a.toNat % 16 + b.toNat / 16) % 16 == b.toNat % 16) := by
  have held : 8 ≤ a.toNat / 16 ↔ 128 ≤ a.toNat := by omega
  have code : a.toNat / 16 % 8 * 16 + a.toNat % 16 = a.toNat % 128 := by omega
  simp only [frameOf, held, code]

theorem State.keypadByte_first {s : State} (b : Byte) (quiet : s.keypad.firstByte = none) :
    s.keypadByte b = { s with keypad := { s.keypad with firstByte := some b } } := by
  unfold State.keypadByte
  rw [quiet]

theorem State.keypadByte_second {s : State} {a : Byte} (b : Byte) (first : s.keypad.firstByte = some a) :
    s.keypadByte b =
      if (a.toNat / 16 + a.toNat % 16 + b.toNat / 16) % 16 = b.toNat % 16
      then s.keyFrame (a.toNat % 128) (decide (128 ≤ a.toNat)) else s.keyError := by
  unfold State.keypadByte
  rw [first]
  dsimp only
  simp only [frameOf_eq, beq_iff_eq]

/-- Settles O35: each line event by whether a first byte waits, and the frame of two bytes by `frameOf_eq`. -/
theorem keypad_bytes_form_frames : Obligations.keypad_bytes_form_frames := by
  intro s b awake erred
  have line {f : State → State} {t : State} (acts : f s = t) : s.act f = .next t :=
    (State.act_awake f s awake).trans (congrArg _ acts)
  refine ⟨line rfl, line rfl, fun quiet => line (if_pos quiet), fun waits => line (if_neg waits),
    fun quiet => line (State.keypadByte_first b quiet), fun a first => ?_⟩
  intro good
  have second := State.keypadByte_second b first
  refine ⟨fun bad => line (second.trans (if_neg bad)), fun agrees => ?_⟩
  rw [exec_keyCommand, State.takeFrame_awake _ _ s awake]
  exact line (second.trans (if_pos agrees))

/-! ## Channel entry (R149 to R152) -/

theorem State.selectChannel_keypad (n : Nat) (s : State) : (s.selectChannel n).keypad = s.keypad := by
  have selects := s.selectChannel_selects n
  unfold Selects at selects
  split at selects
  · rw [selects]
  · split at selects
    · rw [selects]
    · exact selects.keypad

/-- A key whose action ends the channel entry and names a channel. -/
theorem exec_key_selects {s : State} {n : Nat} (cmd : Instr) (code : Nat) (awake : Awake s)
    (frame : exec cmd s = s.takeFrame code false)
    (acts : (s.struck s.keypad.digits).keyAction code = (s.struck []).selectChannel n) :
    ∃ u, exec cmd s = .next u ∧ Selects (s.keyed code []) u n :=
  ⟨_, exec_key cmd code awake frame acts (State.selectChannel_keypad n _),
    (State.selectChannel_selects (s.struck []) n).withKeypad _⟩

/-- An entry that completes names the number its digits make (R151). -/
theorem State.completeEntry_struck (s : State) (ds : List Nat) :
    (s.struck ds).completeEntry = (s.struck []).selectChannel (Nat.ofDigits 10 ds.reverse) :=
  congrArg (fun n => (s.struck []).selectChannel n) (decimalValue_eq ds)

/-- A digit goes to the channel entry while PIN entry is idle and the PIN slate is not the decision (R148). -/
theorem State.struck_channelDigit {s : State} (d : Fin 10) (idle : s.lock.entry = .idle)
    (noSlate : s.composer.decision ≠ some (.slate .pin)) : (s.struck s.keypad.digits).keyAction d.val =
      if s.keypad.digits.length < 2 then s.struck (s.keypad.digits ++ [d.val])
      else (s.struck (s.keypad.digits ++ [d.val])).completeEntry := by
  have notToPin : ¬ ((s.lock.entry.touched s.second).active || s.composer.decision == some (.slate .pin)) = true := by
    rw [PinEntry.active_touched, Bool.or_eq_true, PinEntry.active_iff, beq_iff_eq]
    simp [idle, noSlate]
  have joined : (s.keypad.digits ++ [d.val]).length < 3 ↔ s.keypad.digits.length < 2 := by
    rw [List.length_append, List.length_singleton]
    omega
  rw [State.keyAction_digit]
  exact (if_neg notToPin).trans (if_congr joined rfl rfl)

/-! ## Channel stepping (R153) -/

/-- The number that `pick` takes of those past the tuned channel, else of them all. -/
def State.stepTarget (pick : List Nat → Option Nat) (past : Nat → Nat → Bool) (s : State) : Option Nat :=
  match s.composer.tuned with
  | none => pick s.numbers
  | some t => pick (s.numbers.filter (past t)) <|> pick s.numbers

theorem State.channelAbove_eq (s : State) :
    s.channelAbove = s.stepTarget List.min? fun t n => decide (t < n) := rfl

theorem State.channelBelow_eq (s : State) :
    s.channelBelow = s.stepTarget List.max? fun t n => decide (n < t) := rfl

section Step

variable {pick : List Nat → Option Nat} {past : Nat → Nat → Bool} {s : State}

theorem State.stepTarget_none (empty : pick [] = none) (vacant : s.numbers = []) : s.stepTarget pick past = none := by
  unfold State.stepTarget
  rw [vacant]
  split <;> simp [empty]

/-- The step goes to the nearest number past the tuned channel. With none past it, or no channel tuned, it goes round to
the first of them all. -/
theorem State.stepTarget_some {nearer : Nat → Nat → Prop} {m : Nat} (empty : pick [] = none)
    (picks : ∀ ns n, pick ns = some n ↔ n ∈ ns ∧ ∀ k ∈ ns, nearer n k) (listed : m ∈ s.numbers)
    (next : (∃ t, s.composer.tuned = some t ∧ past t m = true ∧ ∀ k ∈ s.numbers, past t k = true → nearer m k)
      ∨ (∀ t, s.composer.tuned = some t → ∀ k ∈ s.numbers, ¬ past t k = true) ∧ ∀ k ∈ s.numbers, nearer m k) :
    s.stepTarget pick past = some m := by
  unfold State.stepTarget
  rcases next with ⟨t, tuned, isPast, nearest⟩ | ⟨last, first⟩
  · have picked : pick (s.numbers.filter (past t)) = some m := by
      rw [picks]
      simpa [listed, isPast] using nearest
    simp [tuned, picked]
  · have picked : pick s.numbers = some m := (picks _ m).2 ⟨listed, first⟩
    cases tuned : s.composer.tuned with
    | none => exact picked
    | some t =>
      have nonePast : s.numbers.filter (past t) = [] := List.filter_eq_nil_iff.2 (last t tuned)
      simp [nonePast, empty, picked]

/-- A step to no channel only ends the channel entry; a step to a channel names it. -/
theorem exec_step {target : Option Nat} (cmd : Instr) (code : Nat) (awake : Awake s)
    (frame : exec cmd s = s.takeFrame code false)
    (steps : (s.struck s.keypad.digits).keyAction code = (s.struck s.keypad.digits).stepTo target) :
    (target = none → exec cmd s = .next (s.keyed code []))
      ∧ ∀ m, target = some m → ∃ u, exec cmd s = .next u ∧ Selects (s.keyed code []) u m := by
  refine ⟨fun nowhere => ?_, fun m somewhere => ?_⟩
  · exact exec_key (t := s.struck []) cmd code awake frame (steps.trans (by rw [nowhere]; rfl)) rfl
  · exact exec_key_selects cmd code awake frame (steps.trans (by rw [somewhere]; rfl))

end Step

/-- Settles O37: digits and ENTER by what the channel entry holds (`State.struck_channelDigit`), CH+ and CH− by the
channel number they step to (`exec_step`). -/
theorem digits_enter_and_steps_name_a_channel : Obligations.digits_enter_and_steps_name_a_channel := by
  intro s awake ds number listed
  have numbers (k : Nat) : k ∈ s.numbers ↔ listed k := s.mem_numbers k
  have repeats (code : Nat) (held : Bool) (step : code = 11 ∨ code = 12)
      (h : held = false ∨ s.keypad.lastKey = some code) : s.takeFrame code held = s.takeFrame code false :=
    State.takeFrame_acts awake ((Keypad.acts_iff _ _ _).2 (h.imp_right fun last => ⟨step, last⟩))
  refine ⟨fun d idle noSlate => ?_, fun empty => ?_, fun collecting => ?_, fun held acts => ?_, fun held acts => ?_⟩
  · have digit := State.struck_channelDigit d idle noSlate
    refine ⟨fun few => exec_key _ d.val awake rfl (digit.trans (if_pos few)) rfl, fun full => ?_⟩
    exact exec_key_selects _ d.val awake rfl
      ((digit.trans (if_neg (Nat.not_lt.2 full))).trans (s.completeEntry_struck _))
  · have nothing : (s.struck ds).enterKey = s.struck [] := (if_pos empty).trans (by rw [empty])
    exact exec_key _ 10 awake rfl nothing rfl
  · have completes : (s.struck ds).enterKey = (s.struck ds).completeEntry := if_neg collecting
    exact exec_key_selects _ 10 awake rfl (completes.trans (s.completeEntry_struck ds))
  · obtain ⟨nowhere, somewhere⟩ := exec_step (target := s.channelAbove) (.chPlus held) 11 awake
      (repeats 11 held (.inl rfl) acts) rfl
    rw [s.channelAbove_eq] at nowhere somewhere
    exact ⟨fun vacant => nowhere (State.stepTarget_none rfl (s.numbers_nil.2 vacant)), fun m there next => somewhere m
      (State.stepTarget_some rfl (fun _ _ => List.min?_eq_some_iff) ((numbers m).2 there)
        (by simpa [numbers] using next))⟩
  · obtain ⟨nowhere, somewhere⟩ := exec_step (target := s.channelBelow) (.chMinus held) 12 awake
      (repeats 12 held (.inr rfl) acts) rfl
    rw [s.channelBelow_eq] at nowhere somewhere
    exact ⟨fun vacant => nowhere (State.stepTarget_none rfl (s.numbers_nil.2 vacant)), fun m there next => somewhere m
      (State.stepTarget_some rfl (fun _ _ => List.max?_eq_some_iff) ((numbers m).2 there)
        (by simpa [numbers] using next))⟩

end Sys2Proof.Machine
end

section
/-!
PROOF. LOAD SLATE builds a slate position section by section (O44).
-/

namespace Sys2Proof.Machine

/-! ## The header section a LOAD SLATE carries (R170 check 2, R173, R196) -/

theorem boolOf_of_le_one {n : Nat} (h : n ≤ 1) : boolOf n = some (n == 1) := by
  match n, h with
  | 0, _ => rfl
  | 1, _ => rfl

/-- The fill kinds in the order of their codes (R173). -/
def fillKinds : List FillKind := [.price, .rentalHours, .previewLeft, .creditLeft, .pinMask, .channel]

theorem fillKindOf_eq (n : Nat) : fillKindOf n = if n ≤ 5 then some (fillKinds.getD n .price) else none := by
  match n with
  | 0 | 1 | 2 | 3 | 4 | 5 => rfl
  | n + 6 => exact (if_neg (by omega)).symm

section Header

variable (f : SlateHeaderFields)

/-- The fill fields that the section's count takes of the two it has room for. -/
def fillsNamed : List FillField :=
  ([(f.offset1, f.kind1), (f.offset2, f.kind2)].take f.fillCount).map fun x =>
    { offset := x.1, kind := fillKinds.getD x.2 .price }

/-- At most two fill fields, of known kinds. -/
def FillsKnown : Prop :=
  f.fillCount ≤ 2 ∧ (1 ≤ f.fillCount → f.kind1 ≤ 5) ∧ (2 ≤ f.fillCount → f.kind2 ≤ 5)

/-- A fill field of a known kind that ends within the payload. -/
def FillInRange (offset code : Nat) : Prop := code ≤ 5 ∧ offset + 8 ≤ f.length

/-- The header section of a slate cell with each of its fields in range. -/
def HeaderInRange : Prop :=
  f.form = 0 ∧ f.stream ≤ 4079 ∧ f.startMark ≤ 1 ∧ f.length ≤ 120 ∧ f.fillCount ≤ 2
    ∧ (1 ≤ f.fillCount → FillInRange f f.offset1 f.kind1) ∧ (2 ≤ f.fillCount → FillInRange f f.offset2 f.kind2)

/-- The header that the section describes. -/
def headerNamed : SlateHeader :=
  { stream := f.stream, start := f.startMark == 1, length := f.length, fills := fillsNamed f }

theorem fillsOf_known {f : SlateHeaderFields} (known : FillsKnown f) : fillsOf f = some (fillsNamed f) := by
  obtain ⟨few, known1, known2⟩ := known
  unfold fillsOf fillsNamed
  split
  case h_1 count => rw [count]; rfl
  case h_2 count =>
    rw [fillKindOf_eq, if_pos (known1 (by omega)), count]
    rfl
  case h_3 count =>
    rw [fillKindOf_eq, if_pos (known1 (by omega)), fillKindOf_eq, if_pos (known2 (by omega)), count]
    rfl
  case h_4 not0 not1 not2 =>
    have counts : f.fillCount = 0 ∨ f.fillCount = 1 ∨ f.fillCount = 2 := by omega
    exact (counts.elim not0 fun rest => rest.elim not1 not2).elim

theorem fillsOf_unknown {f : SlateHeaderFields} (unknown : ¬ FillsKnown f) : fillsOf f = none := by
  unfold FillsKnown at unknown
  unfold fillsOf
  split
  case h_1 => omega
  case h_2 => rw [fillKindOf_eq, if_neg (by omega)]; rfl
  case h_3 =>
    rw [fillKindOf_eq f.kind1, fillKindOf_eq f.kind2]
    by_cases known1 : f.kind1 ≤ 5
    · rw [if_pos known1, if_neg (show ¬ f.kind2 ≤ 5 by omega)]
    · rw [if_neg known1]
  case h_4 => rfl

/-- Where each fill field taken ends within the payload. -/
theorem fillsNamed_all_iff (n : Nat) : ((fillsNamed f).all fun x => decide (x.offset + 8 ≤ n)) = true
    ↔ (1 ≤ f.fillCount → f.offset1 + 8 ≤ n) ∧ (2 ≤ f.fillCount → f.offset2 + 8 ≤ n) := by
  unfold fillsNamed
  match f.fillCount with
  | 0 | 1 | _ + 2 => simp

theorem fillsOverlap_iff (few : f.fillCount ≤ 2) : fillsOverlap (fillsNamed f) = true
    ↔ f.fillCount = 2 ∧ f.offset1 < f.offset2 + 8 ∧ f.offset2 < f.offset1 + 8 := by
  unfold fillsNamed
  match f.fillCount, few with
  | 0, _ | 1, _ | 2, _ => simp [fillsOverlap]

variable {f}

theorem slateHeaderOf_inRange (range : HeaderInRange f) : slateHeaderOf f = some (some (headerNamed f)) := by
  obtain ⟨form, stream, start, length, few, fill1, fill2⟩ := range
  have known : FillsKnown f := ⟨few, fun h => (fill1 h).1, fun h => (fill2 h).1⟩
  have fit := (fillsNamed_all_iff f f.length).2 ⟨fun h => (fill1 h).2, fun h => (fill2 h).2⟩
  unfold slateHeaderOf
  rw [form, boolOf_of_le_one start, fillsOf_known known]
  exact if_pos ⟨stream, length, fit⟩

theorem slateHeaderOf_empty (form : f.form = 1) : slateHeaderOf f = some none := by
  unfold slateHeaderOf
  rw [form]
  rfl

theorem slateHeaderOf_outOfRange (cell : f.form ≠ 1) (out : ¬ HeaderInRange f) : slateHeaderOf f = none := by
  unfold slateHeaderOf
  split
  case h_1 form =>
    by_cases start : f.startMark ≤ 1
    case neg => rw [boolOf_eq_none_iff.2 (by omega)]
    by_cases known : FillsKnown f
    case neg => rw [boolOf_of_le_one start, fillsOf_unknown known]
    rw [boolOf_of_le_one start, fillsOf_known known]
    refine if_neg fun ⟨stream, length, fit⟩ => out ?_
    obtain ⟨few, known1, known2⟩ := known
    obtain ⟨fit1, fit2⟩ := (fillsNamed_all_iff f f.length).1 fit
    exact ⟨form, stream, start, length, few, fun h => ⟨known1 h, fit1 h⟩, fun h => ⟨known2 h, fit2 h⟩⟩
  case h_2 form => exact absurd form cell
  case h_3 => rfl

end Header

/-! ## The checks of LOAD SLATE (R170) -/

theorem slateInRange_iff {kind position : Nat} : slateInRange kind position = true ↔ kind ≤ 8 ∧ position ≤ 3 := by
  have named : (slateOf kind).isSome = true ↔ kind ≤ 8 := by
    match kind with
    | 0 | 1 | 2 | 3 | 4 | 5 | 6 | 7 | 8 => simp [slateOf]
    | _ + 9 => simp [slateOf]
  simp [slateInRange, named]

section Checks

variable {kind position : Nat}

theorem headerCheck_range {header : Option (Option SlateHeader)}
    (out : ¬ (kind ≤ 8 ∧ position ≤ 3) ∨ header = none) : headerCheck kind position header = some .range := by
  unfold headerCheck
  split
  case isTrue inTable => rw [out.resolve_left (not_not.2 (slateInRange_iff.1 inTable))]
  case isFalse => rfl

theorem headerCheck_empty (inTable : kind ≤ 8 ∧ position ≤ 3) : headerCheck kind position (some none) = none :=
  if_pos (slateInRange_iff.2 inTable)

theorem headerCheck_cell (inTable : kind ≤ 8 ∧ position ≤ 3) (h : SlateHeader) :
    headerCheck kind position (some (some h)) = if fillsOverlap h.fills then some .conflict else none :=
  if_pos (slateInRange_iff.2 inTable)

variable {s : State} {sect : Nat}

theorem State.payloadCheck_range (out : ¬ (kind ≤ 8 ∧ position ≤ 3) ∨ 2 < sect) :
    s.payloadCheck kind position sect = some .range :=
  if_pos (out.imp_left fun outside => Bool.eq_false_iff.2 (mt slateInRange_iff.1 outside))

theorem State.payloadCheck_inTable (inTable : kind ≤ 8 ∧ position ≤ 3) (low : sect ≤ 2) :
    s.payloadCheck kind position sect = if (s.positionAt kind position).isBuilding then none else some .state :=
  if_neg (by simp [slateInRange_iff.2 inTable, low])

end Checks

theorem SlatePosition.isBuilding_eq_true_iff {p : SlatePosition} :
    p.isBuilding = true ↔ ∃ h a b c, p = .building h a b c := by
  cases p <;> simp [SlatePosition.isBuilding]

/-! ## A payload section joins a position (R170) -/

section Sections

variable {h : SlateHeader} {a b c : Option (List Byte)}

theorem SlatePosition.withSection_building {sect : Nat} (low : sect ≤ 2) (bytes : List Byte) :
    (SlatePosition.building h a b c).withSection sect bytes =
      (SlatePosition.building h (if sect = 0 then some bytes else a) (if sect = 1 then some bytes else b)
        (if sect = 2 then some bytes else c)).completed := by
  match sect, low with
  | 0, _ | 1, _ | 2, _ => rfl

theorem SlatePosition.completed_of_missing (missing : a = none ∨ b = none ∨ c = none) :
    (SlatePosition.building h a b c).completed = .building h a b c := by
  unfold SlatePosition.completed
  split
  case h_1 all =>
    cases all
    simp at missing
  case h_2 => rfl

end Sections

/-! ## The command (R170) -/

section Exec

variable {s : State} {t : Target} {kind position : Nat} {f : SlateHeaderFields}

theorem loadSlateHeader_refused {r : Reason} (meant : Meant s t .loadSlate)
    (h : headerCheck kind position (slateHeaderOf f) = some r) :
    exec (.loadSlateHeader t kind position f) s = .next (s.refuse .loadSlate r) :=
  State.act_refused meant.1 meant.2.1 meant.2.2 h

theorem loadSlateHeader_taken {header : Option (Option SlateHeader)} (meant : Meant s t .loadSlate)
    (carried : slateHeaderOf f = header) (h : headerCheck kind position header = none) :
    exec (.loadSlateHeader t kind position f) s = .next (s.loadHeader kind position header) := by
  subst carried
  exact State.act_taken meant.1 meant.2.1 meant.2.2 h

theorem loadSlatePayload_refused {sect : Nat} {bytes : List Byte} {r : Reason} (meant : Meant s t .loadSlate)
    (h : s.payloadCheck kind position sect = some r) :
    exec (.loadSlatePayload t kind position sect bytes) s = .next (s.refuse .loadSlate r) :=
  State.act_refused (check := fun s => s.payloadCheck kind position sect) meant.1 meant.2.1 meant.2.2 h

theorem loadSlatePayload_taken {sect : Nat} {p : SlatePosition} {bytes : List Byte} (meant : Meant s t .loadSlate)
    (h : s.payloadCheck kind position sect = none)
    (joins : (s.positionAt kind position).withSection sect bytes = p) :
    exec (.loadSlatePayload t kind position sect bytes) s = .next (s.setPosition kind position p) :=
  joins ▸ State.act_taken (check := fun s => s.payloadCheck kind position sect)
    (effect := State.loadPayload kind position sect bytes) meant.1 meant.2.1 meant.2.2 h

end Exec

/-- Settles O44: the section carried (`slateHeaderOf_inRange`, `slateHeaderOf_outOfRange`), the checks in R170's order,
then what the position becomes. -/
theorem slate_sections_build_a_position : Obligations.slate_sections_build_a_position := by
  intro s t kind position sect f bytes meant header payload inTable fill inRange overlap kinds fills becomes
  have cell (inside : inTable) (range : inRange) : headerCheck kind position (slateHeaderOf f) =
      if fillsOverlap (fillsNamed f) then some .conflict else none := by
    rw [slateHeaderOf_inRange range]
    exact headerCheck_cell inside _
  have overlaps (range : inRange) : fillsOverlap (fillsNamed f) = true ↔ overlap := by
    obtain ⟨-, -, -, -, few, -, -⟩ := range
    exact fillsOverlap_iff f few
  refine ⟨fun out => ?_, fun inside range clash => ?_, fun inside form => ?_, fun inside range apart => ?_,
    fun out => ?_, fun inside low closed => ?_, fun h a b c inside low held => ?_⟩
  · refine loadSlateHeader_refused meant (headerCheck_range (out.imp_right fun ⟨form, outside⟩ => ?_))
    exact slateHeaderOf_outOfRange form outside
  · exact loadSlateHeader_refused meant ((cell inside range).trans (if_pos ((overlaps range).2 clash)))
  · exact loadSlateHeader_taken meant (slateHeaderOf_empty form) (headerCheck_empty inside)
  · have carried := slateHeaderOf_inRange range
    have check := (cell inside range).trans (if_neg (mt (overlaps range).1 apart))
    exact loadSlateHeader_taken meant carried (carried ▸ check)
  · exact loadSlatePayload_refused meant (State.payloadCheck_range out)
  · refine loadSlatePayload_refused meant ((State.payloadCheck_inTable inside low).trans (if_neg fun building => ?_))
    obtain ⟨h, a, b, c, is⟩ := SlatePosition.isBuilding_eq_true_iff.1 building
    exact closed h a b c is
  · intro a' b' c'
    have check : s.payloadCheck kind position sect = none := (State.payloadCheck_inTable inside low).trans
      (if_pos (SlatePosition.isBuilding_eq_true_iff.2 ⟨h, a, b, c, held⟩))
    have joins : (s.positionAt kind position).withSection sect bytes =
        (SlatePosition.building h a' b' c').completed :=
      (congrArg (·.withSection sect bytes) held).trans (SlatePosition.withSection_building low bytes)
    refine ⟨fun x y z first second third => loadSlatePayload_taken meant check (joins.trans ?_), fun missing =>
      loadSlatePayload_taken meant check (joins.trans (SlatePosition.completed_of_missing missing))⟩
    rw [first, second, third]
    rfl

end Sys2Proof.Machine
end

section
/-!
PROOFS. In-band management: which targets address a room and what a target decides (R176 to R178), that a refusal
changes nothing but its own record (R179, R180), and the two commands of the notice flags (R194, R195).
-/

namespace Sys2Proof.Machine

/-! ## Targets (R176 to R178) -/

/-- Settles O15: the bounds R176 puts on the numbers a target carries add nothing to equality with the room's own, which
are in range. -/
theorem targets_that_address_a_room : Obligations.targets_that_address_a_room := by
  intro s room group
  refine ⟨rfl, fun g => ?_, fun n => ?_, fun u => ?_⟩
  · simp only [State.addressed, Bool.and_eq_true, bne_iff_ne, decide_eq_true_eq, beq_iff_eq]
    constructor
    · exact fun ⟨⟨assigned, _⟩, same⟩ => ⟨assigned, same⟩
    · exact fun ⟨assigned, same⟩ => ⟨⟨assigned, same ▸ group⟩, same⟩
  · simp only [State.addressed, Bool.and_eq_true, bne_iff_ne, decide_eq_true_eq, beq_iff_eq]
    constructor
    · exact fun ⟨⟨⟨assigned, _⟩, _⟩, same⟩ => ⟨assigned, same⟩
    · exact fun ⟨assigned, same⟩ => ⟨⟨⟨assigned, same ▸ Nat.pos_of_ne_zero assigned⟩, same ▸ room⟩, same⟩
  · simp only [State.addressed, Bool.and_eq_true, bne_iff_ne, beq_iff_eq]

/-- A command and a target that R178 check 3 keeps apart. -/
def Misdirected (k : CommandKind) (t : Target) : Prop :=
  k = .assignRoom ∧ (∀ u, t ≠ .unit u) ∨ (k = .restart ∨ k = .poll) ∧ ∀ n, t ≠ .room n

theorem targetAccepted_iff (k : CommandKind) (t : Target) : targetAccepted k t = true ↔ ¬ Misdirected k t := by
  unfold Misdirected
  cases k with
  | assignRoom | restart | poll => cases t <;> simp [targetAccepted]
  | _ => simp [targetAccepted]

/-- The one command that no code names (R178 check 1). -/
theorem Instr.managed_unknown {c : Instr} {t : Target} (h : c.managed = some (t, .unknown)) :
    c = .unknownCommand t := by
  cases c with
  | unknownCommand u => cases h; rfl
  | _ => cases h

/-- Settles O16: each clause is one way through `State.command`. -/
theorem targets_decide_discard_and_refusal : Obligations.targets_decide_discard_and_refusal := by
  intro c t k s awake managed misdirected
  have accepts : targetAccepted k t = true ↔ ¬ misdirected := targetAccepted_iff k t
  obtain ⟨check, effect, acts⟩ := exec_managed managed
  have runs : exec c s = .next (s.command t k check effect) := (acts s).trans (State.act_awake _ s awake)
  refine ⟨accepts, fun away => ?_, fun here refused => ?_⟩
  · rw [runs, State.command_discarded check effect away]
  · change exec c s = .next (s.refuse k .range)
    rcases refused with astray | rfl
    · have barred : targetAccepted k t = false := Bool.eq_false_iff.2 fun accepted => accepts.1 accepted astray
      rw [runs, State.command_target check effect here barred]
    · rw [Instr.managed_unknown managed]
      exact (State.act_awake _ s awake).trans (congrArg _ (State.cmdUnknown_refused here))

/-! ## What the decoder holds after a command taken

Every command but ASSIGN ROOM and RESTART, when taken, leaves the decoder's own block as it was. -/

section Taken

variable (s : State)

@[simp] theorem State.loadLane_management (i : Nat) (config : Option LaneConfig) :
    (s.loadLane i config).management = s.management := by
  cases config <;> simp [State.loadLane]

@[simp] theorem State.setResponse_management (i : Nat) (response : Option Response) :
    (s.setResponse i response).management = s.management := by
  cases response <;> simp [State.setResponse]

@[simp] theorem State.loadKey_management (slot : Nat) (phase : Option Phase) (key : Word32) :
    (s.loadKey slot phase key).management = s.management := by
  cases phase with
  | none => rfl
  | some p =>
    unfold State.loadKey
    dsimp only
    split <;> simp

@[simp] theorem State.clearKey_management (slot : Nat) (phase : Option Phase) :
    (s.clearKey slot phase).management = s.management := by
  cases phase <;> rfl

@[simp] theorem State.retuned_management (old new : ChannelEntry) : (s.retuned old new).management = s.management := by
  unfold State.retuned
  dsimp only
  split <;> simp

@[simp] theorem State.dropRecords_management (i : Nat) (old : ChannelEntry) :
    (s.dropRecords i old).management = s.management := by
  unfold State.dropRecords
  dsimp only
  split <;> simp

@[simp] theorem State.loadChannel_management (i : Nat) (new : Option (Option ChannelEntry)) :
    (s.loadChannel i new).management = s.management := by
  unfold State.loadChannel
  split
  · rfl
  · split
    · simp
    · split
      · split
        · rfl
        · split <;> simp
      · dsimp only
        split <;> simp

@[simp] theorem State.setCeiling_management (wide : Bool) (ceiling scope : Nat) (threshold : Option Nat) :
    (s.setCeiling wide ceiling scope threshold).management = s.management := by
  unfold State.setCeiling
  dsimp only
  split <;> simp

@[simp] theorem State.setPin_management (pin : Option PinDigits) : (s.setPin pin).management = s.management := by
  unfold State.setPin
  dsimp only
  split <;> simp [State.closeWindow_eq]

@[simp] theorem State.closeFolio_management : s.closeFolio.management = s.management := by simp [State.closeFolio]

@[simp] theorem State.loadHeader_management (kind position : Nat) (header : Option (Option SlateHeader)) :
    (s.loadHeader kind position header).management = s.management := by
  cases header <;> rfl

@[simp] theorem State.setCutMode_management (mode : Option CutMode) :
    (s.setCutMode mode).management = s.management := by
  unfold State.setCutMode
  split
  · rfl
  · dsimp only
    split <;> simp

@[simp] theorem State.answerRecords_management (first count : Nat) :
    (s.answerRecords first count).management = s.management := by
  unfold State.answerRecords
  dsimp only
  split <;> simp

@[simp] theorem State.answerLane_management (i : Nat) : (s.answerLane i).management = s.management := by
  unfold State.answerLane
  split <;> rfl

theorem State.pollTaken_management {answer : State → State} (h : (answer s).management = s.management) :
    (s.pollTaken answer).management = s.management := by
  unfold State.pollTaken
  split
  · rfl
  · split
    · rfl
    · exact h

end Taken

/-! ## A command is refused or leaves the record of refusals (R179, R180) -/

/-- The last refusal and the refused count read as they did. -/
def RefusalsStand (s u : State) : Prop :=
  u.management.lastRefusal = s.management.lastRefusal ∧ u.management.refusedCount = s.management.refusedCount

theorem RefusalsStand.of_management {s u : State} (h : u.management = s.management) : RefusalsStand s u :=
  ⟨congrArg Management.lastRefusal h, congrArg Management.refusedCount h⟩

/-- What a command may make of s: a state with the record of refusals as it was, or the refusal of that command. -/
def RefusedOrStands (c : Instr) (s u : State) : Prop :=
  RefusalsStand s u ∨ ∃ t k r, c.managed = some (t, k) ∧ u = s.refuse k r

theorem State.command_refusedOrStands {c : Instr} {t : Target} {k : CommandKind} {check : State → Option Reason}
    {effect : State → State} {s : State} (managed : c.managed = some (t, k)) (taken : RefusalsStand s (effect s)) :
    RefusedOrStands c s (s.command t k check effect) := by
  by_cases here : s.addressed t = true
  · by_cases accepted : targetAccepted k t = true
    · cases checked : check s with
      | some r => exact .inr ⟨t, k, r, managed, State.command_refused _ here accepted checked⟩
      | none => exact .inl (State.command_taken effect here accepted checked ▸ taken)
    · have barred := Bool.eq_false_iff.2 accepted
      exact .inr ⟨t, k, .range, managed, State.command_target _ _ here barred⟩
  · have away := Bool.eq_false_iff.2 here
    exact .inl (.of_management (congrArg State.management (State.command_discarded check effect away)))

/-- The same for a command that, taken, leaves the decoder's block as it was. -/
theorem State.command_beside {c : Instr} {t : Target} {k : CommandKind} {check : State → Option Reason}
    {effect : State → State} {s : State} (managed : c.managed = some (t, k))
    (taken : (effect s).management = s.management) : RefusedOrStands c s (s.command t k check effect) :=
  State.command_refusedOrStands managed (.of_management taken)

theorem State.assignRoom_refusalsStand (room group : Nat) (s : State) : RefusalsStand s (s.assignRoom room group) := by
  constructor <;> simp [State.assignRoom]

theorem State.runCommand_refusedOrStands {c : Instr} (stays : ∀ t, c ≠ .restart t) (s : State) :
    RefusedOrStands c s (s.runCommand c) := by
  cases c with
  | restart t => exact absurd rfl (stays t)
  | assignRoom t room group => exact State.command_refusedOrStands rfl (s.assignRoom_refusalsStand room group)
  | loadLane => exact State.command_beside rfl (s.loadLane_management _ _)
  | setLaneResponse => exact State.command_beside rfl (s.setResponse_management _ _)
  | loadKey => exact State.command_beside rfl (s.loadKey_management _ _ _)
  | clearKey => exact State.command_beside rfl (s.clearKey_management _ _)
  | setPackages => exact State.command_beside rfl (by simp [State.setPackages])
  | loadChannel => exact State.command_beside rfl (s.loadChannel_management _ _)
  | loadRatingMap => exact State.command_beside rfl (by simp [State.loadRatingMap])
  | setCeiling => exact State.command_beside rfl (s.setCeiling_management _ _ _ _)
  | setPin => exact State.command_beside rfl (s.setPin_management _)
  | setUnlockMinutes => exact State.command_beside rfl (by simp [State.setUnlockMinutes])
  | loadPrice => exact State.command_beside rfl (by simp [State.loadPrice])
  | setBilling => exact State.command_beside rfl (by simp [State.setBilling])
  | extendRental => exact State.command_beside rfl (by simp [State.extendRental])
  | closeFolio => exact State.command_beside rfl s.closeFolio_management
  | loadSlateHeader => exact State.command_beside rfl (s.loadHeader_management _ _ _)
  | setCutMode => exact State.command_beside rfl (s.setCutMode_management _)
  | pollStatus => exact State.command_beside rfl (s.pollTaken_management rfl)
  | pollRecords => exact State.command_beside rfl (s.pollTaken_management (s.answerRecords_management _ _))
  | pollLane => exact State.command_beside rfl (s.pollTaken_management (s.answerLane_management _))
  | settle => exact State.command_beside rfl (by simp [State.settle, -State.push_range])
  | setCredit | loadSlatePayload | clearNotices | setNoticeMask | unknownCommand =>
    exact State.command_beside rfl rfl
  | _ => exact .inl ⟨rfl, rfl⟩

/-- Settles O17: the command acts as a cell that carries it, and `State.runCommand_refusedOrStands` says what that
leaves. -/
theorem refused_command_changes_nothing_else : Obligations.refused_command_changes_nothing_else := by
  intro c t k s awake managed stays
  have other (u : Target) : c ≠ .restart u := by
    rintro rfl
    cases managed
    exact stays rfl
  refine ⟨s.runCommand c, (exec_of_managed managed s).trans (State.act_awake _ s awake), ?_⟩
  refine (State.runCommand_refusedOrStands other s).imp_right ?_
  rintro ⟨t', k', r, managed', refused⟩
  cases managed.symm.trans managed'
  exact ⟨r, refused⟩

/-! ## Notice flags and mask (R194, R195) -/

theorem attentionOf_iff (flags mask : FlagSet) :
    attentionOf flags mask = true ↔ ∃ i, flags.getLsbD i = true ∧ mask.getLsbD i = true := by
  have common : flags &&& mask = 0#12 ↔ ∀ i, ¬ (flags.getLsbD i = true ∧ mask.getLsbD i = true) := by
    constructor
    · intro apart i
      simpa using congrArg (·.getLsbD i) apart
    · intro apart
      refine BitVec.eq_of_getLsbD_eq fun i _ => ?_
      simpa using apart i
  rw [attentionOf, bne_iff_ne, ne_eq, common, not_forall_not]

/-- The twelve flags a cell carries are the low bits of its two bytes (R196). -/
theorem getLsbD_flagsOfHalf {i : Nat} (h : i < 12) (set : Half) : (flagsOfHalf set).getLsbD i = set.getLsbD i := by
  simp [flagsOfHalf, h]

/-- Settles O52: both commands check nothing, and the line follows the flags and the mask by `attentionOf_iff`. -/
theorem clear_notices_and_set_mask : Obligations.clear_notices_and_set_mask := by
  intro s t set awake here
  refine ⟨s.clearNotices (flagsOfHalf set), s.setNoticeMask (flagsOfHalf set),
    State.act_taken awake here rfl rfl, State.act_taken awake here rfl rfl,
    rfl, rfl, rfl, rfl, rfl, rfl, rfl, rfl, attentionOf_iff _ _, attentionOf_iff _ _, fun i inSet => ?_⟩
  refine ⟨?_, getLsbD_flagsOfHalf inSet set⟩
  have cleared : (s.clearNotices (flagsOfHalf set)).reply.flags.getLsbD i =
      (s.reply.flags.getLsbD i && !set.getLsbD i) := by
    rw [← getLsbD_flagsOfHalf inSet set]
    simp [State.clearNotices, Reply.withFlags, inSet]
  rw [cleared, Bool.and_eq_true, Bool.not_eq_true']

end Sys2Proof.Machine
end

section
/-!
SUPPORT. What leaves the reply unit alone: every operation that neither sets a flag nor queues a frame.
-/

namespace Sys2Proof.Machine

/-! ## Notices, hotel time and the local second -/

theorem State.setRecords_reply (i n : Nat) (e : NoticeEntry) (s : State) :
    (State.setRecords i n e s).reply = s.reply := by
  unfold State.setRecords
  dsimp only
  split <;> simp

theorem State.notice_reply (code : Nat) (f : NoticeFields) (s : State) : (State.notice code f s).reply = s.reply := by
  unfold State.notice
  dsimp only
  split
  · rfl
  · split
    · rfl
    · split
      · rfl
      · split
        · exact s.setRecords_reply _ _ _
        · rfl

theorem State.restoreRental_reply (hotel : Nat) (s : State) (x : Slot × Nat) :
    (State.restoreRental hotel s x).reply = s.reply := by
  unfold State.restoreRental
  split <;> rfl

@[simp] theorem State.restoreRentals_reply (s : State) : s.restoreRentals.reply = s.reply := by
  unfold State.restoreRentals
  split
  · rfl
  · split
    · rfl
    · exact List.foldlRecOn (motive := fun t : State => t.reply = s.reply) _ _ rfl
        fun t same x _ => (t.restoreRental_reply _ x).trans same

theorem State.beacon_reply (t : Nat) (s : State) : (State.beacon t s).reply = s.reply := by
  unfold State.beacon State.handRestoration
  dsimp only
  split
  · split <;> simp
  · simp

theorem State.selectChannel_reply (n : Nat) (s : State) : (s.selectChannel n).reply = s.reply := by
  unfold State.selectChannel
  split <;> simp

theorem State.completeEntry_reply (s : State) : s.completeEntry.reply = s.reply :=
  State.selectChannel_reply _ s.endEntry

theorem State.swapProgramme_reply (n : Nat) (s : State) : (s.swapProgramme n).reply = s.reply := by
  unfold State.swapProgramme
  split
  · rfl
  · dsimp only
    split
    · rfl
    · exact s.setRecords_reply _ _ _

theorem State.endProgramme_reply (n : Nat) (s : State) : (s.endProgramme n).reply = s.reply := by
  unfold State.endProgramme
  split
  · rfl
  · exact s.setRecords_reply _ _ _

theorem State.extendMeter_reply (i : Nat) (s : State) : (s.extendMeter i).reply = s.reply := by
  unfold State.extendMeter
  split <;> simp

theorem State.outputSlot_reply (s : State) : s.outputSlot.reply = s.reply := by
  have same := congrArg State.reply s.outputSlot_only.rest
  exact same

/-! ## The guest keypad -/

theorem State.rateDigit_reply (d : Nat) (s : State) : (s.rateDigit d).reply = s.reply := by
  unfold State.rateDigit
  split
  · simp
  · split
    · rfl
    · split <;> rfl

theorem State.buy_reply (s : State) : s.buy.reply = s.reply := by
  unfold State.buy
  split
  · rfl
  · split
    · simp [State.refuseBuy]
    · split
      · simp [State.previewBuy]
      · simp [State.directBuy]
      · rfl

theorem State.cancelKey_reply (s : State) : s.cancelKey.reply = s.reply := by
  unfold State.cancelKey
  split
  · rfl
  · split
    · rfl
    · unfold State.cancelPreview
      split
      · rfl
      · split
        · rfl
        · split <;> simp

/-! ## Management commands -/

theorem State.loadLane_reply (i : Nat) (config : Option LaneConfig) (s : State) :
    (s.loadLane i config).reply = s.reply := by
  cases config <;> simp [State.loadLane]

theorem State.setResponse_reply (i : Nat) (response : Option Response) (s : State) :
    (s.setResponse i response).reply = s.reply := by
  cases response <;> simp [State.setResponse]

theorem State.loadKey_reply (slot : Nat) (phase : Option Phase) (key : Word32) (s : State) :
    (s.loadKey slot phase key).reply = s.reply := by
  cases phase with
  | none => rfl
  | some p =>
    unfold State.loadKey
    dsimp only
    split <;> simp

theorem State.clearKey_reply (slot : Nat) (phase : Option Phase) (s : State) :
    (s.clearKey slot phase).reply = s.reply := by
  cases phase <;> rfl

theorem State.retuned_reply (old new : ChannelEntry) (s : State) : (s.retuned old new).reply = s.reply := by
  unfold State.retuned
  dsimp only
  split <;> simp

theorem State.dropRecords_reply (i : Nat) (old : ChannelEntry) (s : State) :
    (s.dropRecords i old).reply = s.reply := by
  unfold State.dropRecords
  dsimp only
  split <;> simp

theorem State.loadChannel_reply (i : Nat) (new : Option (Option ChannelEntry)) (s : State) :
    (s.loadChannel i new).reply = s.reply := by
  unfold State.loadChannel
  split
  · rfl
  · split
    · simp
    · split
      · split
        · rfl
        · split
          · exact State.retuned_reply _ _ _
          · simp
      · next e _ old _ _ =>
        have dropped : ((s.setEntry i e).dropRecords i old).reply = s.reply := State.dropRecords_reply _ _ _
        dsimp only
        split <;> simpa using dropped

theorem State.setCeiling_reply (wide : Bool) (ceiling scope : Nat) (threshold : Option Nat) (s : State) :
    (s.setCeiling wide ceiling scope threshold).reply = s.reply := by
  unfold State.setCeiling
  dsimp only
  split <;> simp

theorem State.setPin_reply (pin : Option PinDigits) (s : State) : (s.setPin pin).reply = s.reply := by
  unfold State.setPin
  dsimp only
  split <;> simp [State.closeWindow_eq]

theorem State.loadHeader_reply (kind position : Nat) (header : Option (Option SlateHeader)) (s : State) :
    (s.loadHeader kind position header).reply = s.reply := by
  cases header <;> rfl

theorem State.setCutMode_reply (mode : Option CutMode) (s : State) : (s.setCutMode mode).reply = s.reply := by
  unfold State.setCutMode
  split
  · rfl
  · dsimp only
    split <;> simp

/-! ## The scan -/

theorem State.scanned_reply (s : State) : s.scanned.reply = s.reply := by
  unfold State.scanned
  extract_lets _ s1 s2
  have queued : s2.reply = s.reply := by
    show (if s1.store.page.closeMark then s1.resumeClose else s1.scanRecords).reply = s1.reply
    split
    · simp [State.resumeClose]
    · simp [State.scanRecords]
  split <;> simpa using queued

end Sys2Proof.Machine
end

section
/-!
PROOF. The attention line follows the flags and the mask through every step (O57): whatever writes a flag or the mask
sets the line with it (R195), and nothing else writes the line.
-/

namespace Sys2Proof.Machine

/-! ## The relation -/

/-- If the line follows the flags and the mask of s, it follows those of t. -/
abbrev AttentionKept (s t : State) : Prop := AttentionFollows s → AttentionFollows t

namespace AttentionKept

variable {s t u : State}

theorem refl (s : State) : AttentionKept s s := id

theorem trans (first : AttentionKept s t) (next : AttentionKept t u) : AttentionKept s u := next ∘ first

/-- What leaves the reply unit alone. -/
theorem of_reply (same : t.reply = s.reply) : AttentionKept s t := fun follows => by
  rw [AttentionFollows, same]
  exact follows

/-- What ends a command leaves the reply unit alone. -/
theorem finish (kept : AttentionKept s t) : AttentionKept s t.finish := kept.trans (of_reply (by simp))

theorem foldl {α : Type} {g : State → α → State} (each : ∀ s a, AttentionKept s (g s a)) (as : List α)
    (s : State) : AttentionKept s (as.foldl g s) := by
  induction as generalizing s with
  | nil => exact refl s
  | cons a as ih => exact (each s a).trans (ih (g s a))

end AttentionKept

/-- The line is set with the flags and the mask, whatever it was (R195). -/
theorem Reply.withFlags_attention (r : Reply) (flags mask : FlagSet) :
    (r.withFlags flags mask).attention = attentionOf (r.withFlags flags mask).flags (r.withFlags flags mask).mask := rfl

theorem State.raise_attention (f : NoticeFlag) (s : State) : AttentionFollows (s.raise f) :=
  s.reply.withFlags_attention _ _

theorem State.refuse_attention (k : CommandKind) (r : Reason) (s : State) : AttentionFollows (s.refuse k r) :=
  State.raise_attention .commandRefused _

/-- At power-on the line is released, for the mask is empty. -/
theorem State.cold_attention (s : State) : AttentionFollows s.cold := by
  show Reply.initial.attention = attentionOf Reply.initial.flags Reply.initial.mask
  rfl

/-- A flag set and the command ended. -/
theorem State.finish_raise_attention (f : NoticeFlag) (s : State) : AttentionFollows (s.raise f).finish :=
  AttentionKept.finish (.refl _) (s.raise_attention f)

/-! ## The local second and its events -/

theorem State.terminal_attention (i : Nat) (s : State) : AttentionKept s (s.terminal i) := by
  unfold State.terminal
  refine AttentionKept.finish ?_
  split
  case h_4 =>
    unfold State.previewTerminal
    split
    · exact .of_reply rfl
    · exact fun _ => State.raise_attention .previewEnded _
  case h_5 => exact fun _ => State.raise_attention .rentalExpired _
  all_goals exact .of_reply rfl

/-- An event of a local second. -/
theorem State.perform_attention (s : State) (e : TickEvent) : AttentionKept s (s.perform e) := by
  have on : ∀ (p : Prop) [Decidable p] {t : State}, AttentionKept s t → AttentionKept s (if p then t else s) := by
    intro p _ t kept
    split
    · exact kept
    · exact .refl s
  cases e with
  | streamLost i => exact on _ fun _ => State.finish_raise_attention .streamLost _
  | keyWaitExpiry i => exact on _ fun _ => State.finish_raise_attention .keyMiss _
  | programmeSwap n => exact on _ (.of_reply (s.swapProgramme_reply n))
  | programmeEnd n => exact on _ (.of_reply (s.endProgramme_reply n))
  | pinEntryTimeout => exact on _ (.of_reply rfl)
  | channelEntryTimeout => exact on _ (.of_reply s.completeEntry_reply)
  | cutAllowanceEnd => exact on _ (.finish (.of_reply (by simp)))
  | refusalExpiry => exact on _ (.finish (.of_reply rfl))
  | compare i => exact on _ fun _ => s.raise_attention .rentalEnding
  | terminal i => exact on _ (s.terminal_attention i)
  | extended i => exact on _ (.of_reply (s.extendMeter_reply i))

theorem State.catchUp_attention (s : State) : AttentionKept s s.catchUp :=
  AttentionKept.foldl State.perform_attention s.due { s with due := [], keypad := { s.keypad with restarted := false } }

/-! ## The guest keypad -/

theorem State.pinMismatched_attention (s : State) : AttentionKept s s.pinMismatched := by
  unfold State.pinMismatched
  dsimp only
  split
  · exact fun _ => State.finish_raise_attention .lockout _
  · exact .of_reply rfl

theorem State.pinDigit_attention (d : Nat) (s : State) : AttentionKept s (s.pinDigit d) := by
  unfold State.pinDigit
  split
  · split
    · exact .refl s
    · split <;> exact .of_reply rfl
  · exact .of_reply (s.rateDigit_reply d)
  · split
    · exact .of_reply rfl
    · split
      · exact .finish (.of_reply rfl)
      · exact s.pinMismatched_attention
  · split
    · exact .of_reply rfl
    · split
      · exact .finish (.of_reply rfl)
      · exact s.pinMismatched_attention

theorem State.digitKey_attention (d : Nat) (s : State) : AttentionKept s (s.digitKey d) := by
  unfold State.digitKey
  split
  · exact State.pinDigit_attention d s.endEntry
  · unfold State.channelDigit
    dsimp only
    split
    · exact .of_reply rfl
    · exact .of_reply (State.completeEntry_reply _)

theorem State.keyAction_attention (code : Nat) (s : State) : AttentionKept s (s.keyAction code) := by
  have steps (target : Option Nat) : AttentionKept s (s.stepTo target) := by
    unfold State.stepTo
    split
    · exact .of_reply rfl
    · exact .of_reply (State.selectChannel_reply _ s.endEntry)
  unfold State.keyAction
  split
  · unfold State.enterKey
    split
    · exact .refl s
    · exact .of_reply s.completeEntry_reply
  · exact steps _
  · exact steps _
  · exact .of_reply s.endEntry.buy_reply
  · exact .of_reply s.cancelKey_reply
  · exact .finish (.of_reply (by rw [State.closeWindow_eq]; rfl))
  · exact .of_reply rfl
  · split
    · exact s.digitKey_attention _
    · exact .refl s

theorem State.keyFrame_attention (code : Nat) (held : Bool) (s : State) : AttentionKept s (s.keyFrame code held) := by
  unfold State.keyFrame
  split
  · exact State.keyAction_attention code s.touchKeys
  · exact .of_reply rfl

theorem State.keypadByte_attention (b : Byte) (s : State) : AttentionKept s (State.keypadByte b s) := by
  unfold State.keypadByte
  split
  · exact .of_reply rfl
  · dsimp only
    split
    · exact s.keyFrame_attention _ _
    · exact .of_reply rfl

/-! ## Store operations -/

theorem State.requesterOk_attention (op : StoreOp) (s : State) : AttentionKept s (s.requesterOk op) := by
  have commits (n : Nat) : AttentionKept s (s.commitOk n) := by
    unfold State.commitOk
    split
    · exact .refl s
    · exact fun _ => State.raise_attention .purchase _
  unfold State.requesterOk
  split
  · split
    · exact commits _
    · exact .refl s
  · exact commits _
  · exact .of_reply (by simp)
  · exact .refl s

theorem State.opDone_attention (op : StoreOp) (s : State) : AttentionKept s (s.opDone op) := by
  unfold State.opDone
  extract_lets s1 s2 s3
  have popped : AttentionKept s s1 := .of_reply rfl
  split
  · exact popped
  · have told : AttentionKept s s2 := popped.trans (s1.requesterOk_attention op)
    have ended : AttentionKept s2 s3 := by
      show AttentionKept s2 (if op.isEnding then s2.closeEnds else s2)
      split
      · exact fun _ => State.raise_attention .closeDone _
      · exact .refl s2
    exact .finish ((told.trans ended).trans (.of_reply (by simp)))

theorem State.opRetried_attention (q : QueuedOp) (k : Nat) (s : State) : AttentionKept s (s.opRetried q k) := by
  unfold State.opRetried
  extract_lets again s1
  have retried : AttentionKept s s1 := .of_reply rfl
  split
  · exact retried.trans (s1.opDone_attention q.op)
  · exact retried

theorem State.opFailed_attention (op : StoreOp) (k : Nat) (s : State) : AttentionFollows (s.opFailed op k) := by
  unfold State.opFailed
  extract_lets s1 s2 s3
  have failed : AttentionFollows s1 := State.raise_attention .storeError _
  split
  · exact failed
  · have told : AttentionKept s1 s2 := AttentionKept.trans (.of_reply (by simp))
      (AttentionKept.foldl (fun _ _ => .of_reply (by simp)) _ _)
    refine AttentionKept.finish (s := s2) ?_ (told failed)
    split
    · exact .of_reply (by simp [s3])
    · exact .of_reply rfl

theorem State.completion_attention (kind : OpKind) (r : OpResult) (s : State) :
    AttentionKept s (State.completion kind r s) := by
  have fails (q : QueuedOp) (k : Nat) : AttentionKept s (s.opFails q k) := by
    unfold State.opFails
    split
    · exact fun _ => s.opFailed_attention q.op k
    · exact s.opRetried_attention q k
  unfold State.completion
  split
  · exact .refl s
  · split
    · split
      · exact fails _ _
      · split
        · exact s.opDone_attention _
        · split
          · exact s.opDone_attention _
          · exact fails _ _
    · exact .refl s

/-! ## Management commands -/

/-- A refusal raises its flag; a command taken does as its owner's effect. -/
theorem State.command_attention {t : Target} {k : CommandKind} {check : State → Option Reason}
    {effect : State → State} {s : State} (taken : AttentionKept s (effect s)) :
    AttentionKept s (s.command t k check effect) := by
  unfold State.command
  split
  · split
    · split
      · exact fun _ => s.refuse_attention _ _
      · exact taken
    · exact fun _ => s.refuse_attention _ _
  · exact .refl s

/-- Frames that join the queue do not touch the line. -/
theorem State.enqueue_attention (frames : List ReplyFrame) (s : State) : AttentionKept s (s.enqueue frames) := id

theorem State.pollTaken_attention {answer : State → State} {s : State} (answered : AttentionKept s (answer s)) :
    AttentionKept s (s.pollTaken answer) := by
  unfold State.pollTaken
  split
  · exact .refl s
  · split
    · exact s.enqueue_attention _
    · exact answered

theorem State.answerRecords_attention (first count : Nat) (s : State) :
    AttentionKept s (s.answerRecords first count) := by
  unfold State.answerRecords
  extract_lets listed built s1
  have queued : AttentionKept s s1 := s.enqueue_attention _
  split
  · exact queued
  · exact (queued.trans (.of_reply (by simp))).finish

theorem State.answerLane_attention (i : Nat) (s : State) : AttentionKept s (s.answerLane i) := by
  unfold State.answerLane
  split <;> exact s.enqueue_attention _

/-- A command a cell carries. -/
theorem State.runCommand_attention (c : Instr) (s : State) : AttentionKept s (s.runCommand c) := by
  have beside {t : Target} {k : CommandKind} {check : State → Option Reason} {effect : State → State}
      (same : (effect s).reply = s.reply) : AttentionKept s (s.command t k check effect) :=
    State.command_attention (.of_reply same)
  cases c with
  | restart => exact State.command_attention fun _ => s.cold_attention
  | clearNotices | setNoticeMask => exact State.command_attention fun _ => s.reply.withFlags_attention _ _
  | pollStatus => exact State.command_attention (State.pollTaken_attention (s.enqueue_attention _))
  | pollRecords => exact State.command_attention (State.pollTaken_attention (s.answerRecords_attention _ _))
  | pollLane => exact State.command_attention (State.pollTaken_attention (s.answerLane_attention _))
  | assignRoom => exact beside (by simp [State.assignRoom])
  | loadLane => exact beside (s.loadLane_reply _ _)
  | setLaneResponse => exact beside (s.setResponse_reply _ _)
  | loadKey => exact beside (s.loadKey_reply _ _ _)
  | clearKey => exact beside (s.clearKey_reply _ _)
  | setPackages => exact beside (by simp [State.setPackages])
  | loadChannel => exact beside (s.loadChannel_reply _ _)
  | loadRatingMap => exact beside (by simp [State.loadRatingMap])
  | setCeiling => exact beside (s.setCeiling_reply _ _ _ _)
  | setPin => exact beside (s.setPin_reply _)
  | setUnlockMinutes => exact beside (by simp [State.setUnlockMinutes])
  | loadPrice => exact beside (by simp [State.loadPrice])
  | setBilling => exact beside (by simp [State.setBilling])
  | extendRental => exact beside (by simp [State.extendRental])
  | closeFolio => exact beside (by simp [State.closeFolio])
  | loadSlateHeader => exact beside (s.loadHeader_reply _ _ _)
  | setCutMode => exact beside (s.setCutMode_reply _)
  | settle => exact beside (by simp [State.settle, -State.push_range])
  | setCredit | loadSlatePayload | unknownCommand => exact beside rfl
  | _ => exact .refl s

/-! ## Cell intake -/

theorem State.acceptCell_attention (i : Nat) (c : Cell) (s : State) : AttentionKept s (s.acceptCell i c) := by
  unfold State.acceptCell
  refine AttentionKept.finish ?_
  split
  · exact fun _ => State.raise_attention _ _
  · exact .of_reply rfl

theorem State.manage_attention (c : Cell) (s : State) : AttentionKept s (s.manage c) := by
  unfold State.manage
  split
  · exact .refl s
  · split
    · exact .refl s
    · split
      · split
        · exact s.runCommand_attention _
        · exact fun _ => s.refuse_attention _ _
      · exact .refl s

theorem State.route_attention (c : Cell) (s : State) : AttentionKept s (s.route c) := by
  unfold State.route
  split
  · split
    · exact s.acceptCell_attention _ c
    · exact .refl s
  · split
    · exact .refl s
    · split
      · exact s.manage_attention c
      · split
        · unfold State.beaconCell
          split
          · exact .of_reply rfl
          · exact .of_reply (s.beacon_reply _)
        · split
          · unfold State.noticeCell
            split
            · exact .of_reply rfl
            · exact .of_reply (s.notice_reply _ _)
          · exact .refl s

/-- Intake stands apart from the reply unit. -/
theorem State.withIntake_attention (k : Intake) (s : State) : AttentionKept s (s.withIntake k) := .of_reply rfl

theorem State.cellReceived_attention (bytes : List Byte) (s : State) :
    AttentionKept s (State.cellReceived bytes s) := by
  unfold State.cellReceived
  split
  · split
    · exact (s.withIntake_attention _).trans (State.route_attention _ _)
    · exact .of_reply rfl
  · exact .refl s

theorem State.syncSearch_attention (skipped : Nat) (bytes : List Byte) (s : State) :
    AttentionKept s (State.syncSearch skipped bytes s) := by
  unfold State.syncSearch
  split
  · split
    · dsimp only
      split
      · exact .of_reply rfl
      · exact (s.withIntake_attention _).trans (State.route_attention _ _)
    · exact .of_reply rfl
  · exact .refl s

/-! ## Commands and steps -/

/-- How a command ends: in a next state whose line still follows. -/
def EndsFollowing (s : State) (o : Host.Outcome State Fault Refusal) : Prop := ∃ t, o = .next t ∧ AttentionKept s t

theorem State.act_attention {f : State → State} (acts : ∀ s, AttentionKept s (f s)) (s : State) :
    EndsFollowing s (s.act f) := by
  refine ⟨_, rfl, ?_⟩
  split
  · exact s.catchUp_attention.trans (acts _)
  · exact .refl s

/-- A command that does not reach the reply unit, but for what it catches up with. -/
theorem State.act_beside_attention {f : State → State} (same : ∀ s : State, (f s).reply = s.reply) (s : State) :
    EndsFollowing s (s.act f) := State.act_attention (fun t => .of_reply (same t)) s

theorem State.takeEvent_attention (e : TickEvent) (s : State) : EndsFollowing s (s.takeEvent e) := by
  refine ⟨_, rfl, ?_⟩
  split
  · exact State.perform_attention { s with due := s.due.erase e } e
  · exact .refl s

theorem State.takeFrame_attention (code : Nat) (held : Bool) (s : State) : EndsFollowing s (s.takeFrame code held) := by
  refine State.act_attention (fun t => ?_) s
  split
  · exact .of_reply rfl
  · exact t.keyFrame_attention code held

/-- A part just powered shows its line with the power-on flag and an empty mask (R141). -/
theorem State.powerOn_attention (s : State) : AttentionFollows s.powerOn :=
  AttentionKept.of_reply s.cold.scanned_reply s.cold_attention

theorem exec_attention (c : Instr) (s : State) : EndsFollowing s (exec c s) := by
  cases managed : c.managed with
  | some tk => exact exec_of_managed managed s ▸ State.act_attention (State.runCommand_attention c) s
  | none =>
    cases event : c.isTickEvent with
    | true =>
      obtain ⟨e, rfl⟩ := Instr.command_of_isTickEvent event
      exact exec_command e s ▸ s.takeEvent_attention e
    | false =>
      cases frame : c.isKeyFrame with
      | true =>
        obtain ⟨code, held, acts⟩ := exec_keyFrame frame
        exact acts s ▸ s.takeFrame_attention code held
      | false =>
        cases c with
        | powerOn => exact ⟨_, rfl, fun _ => s.powerOn_attention⟩
        | powerRemoved k =>
          refine ⟨_, rfl, ?_⟩
          split
          · exact fun _ => Reply.withFlags_attention _ 0 0
          · exact .refl s
        | syncSearch skipped bytes => exact State.act_attention (State.syncSearch_attention skipped bytes) s
        | cellReceived bytes => exact State.act_attention (State.cellReceived_attention bytes) s
        | outputSlot => exact State.act_beside_attention State.outputSlot_reply s
        | localSecond => exact State.act_beside_attention (f := State.localSecond) (fun _ => rfl) s
        | firstByteExpiry =>
          refine State.act_beside_attention (fun t => ?_) s
          unfold State.expireFirstByte
          split <;> rfl
        | framingError | badFrame => exact State.act_beside_attention (f := State.keyError) (fun _ => rfl) s
        | timeBeacon time => exact State.act_beside_attention (State.beacon_reply _) s
        | currentNotice fields => exact State.act_beside_attention (State.notice_reply 0 fields) s
        | nextNotice fields => exact State.act_beside_attention (State.notice_reply 1 fields) s
        | appendCompletes r | advanceCompletes r | advanceRangeCompletes r | writeExtensionCompletes r
        | writeSettingsCompletes r | eraseSectorCompletes r | closeMarkCompletes r =>
          exact State.act_attention (State.completion_attention _ r) s
        | scan =>
          refine State.act_beside_attention (fun t => ?_) s
          unfold State.scan
          split
          · exact t.scanned_reply
          · rfl
        | frameSent =>
          refine State.act_attention (fun t => ?_) s
          unfold State.frameSent
          split <;> exact id
        | firstByteReceived byte => exact State.act_attention (State.keypadByte_attention byte) s
        | streamLost _ | keyWaitExpiry _ | programmeSwap _ | programmeEnd _ | pinEntryTimeout | channelEntryTimeout
        | cutAllowanceEnd | refusalExpiry | compare _ | terminal _ | extended _ => cases event
        | digit _ _ | enter _ | chPlus _ | chMinus _ | buy _ | cancel _ | lock _ | rate _ | unassignedKeyCode _ _ =>
          cases frame
        | _ => cases managed

/-- Settles O57: each command keeps the line (`exec_attention`), and the queue's rest does not touch the reply unit. -/
theorem attention_follows_every_step : Obligations.attention_follows_every_step := by
  intro s t follows stepped
  unfold step at stepped
  split at stepped
  · cases stepped
    exact follows
  · next c rest _ =>
    obtain ⟨u, run, kept⟩ := exec_attention c { s with pending := rest }
    rw [run] at stepped
    cases stepped
    exact kept follows

end Sys2Proof.Machine
end

section
/-!
PROOF. The reply frames as they leave: the queue, the frame, and the content field by field (O51).
-/

namespace Sys2Proof.Machine

/-! ## Fields of one byte -/

/-- An absent one-byte field is all ones (R196). -/
theorem optByte_eq_bytesOf (x : Option Nat) : optByte x = bytesOf 1 (x.getD 255) := by
  cases x <;> rfl

theorem boolByte_eq_bytesOf (b : Bool) : [boolByte b] = bytesOf 1 (if b then 1 else 0) := by
  cases b <;> rfl

theorem boolToNat_eq_ite (b : Bool) : b.toNat = if b then 1 else 0 := by
  cases b <;> rfl

/-- The configuration of a lane never loaded is nine bytes 0, field by field (R192). -/
theorem configBytes_none : configBytes none =
    bytesOf 1 0 ++ bytesOf 2 0 ++ bytesOf 1 0 ++ bytesOf 1 0 ++ bytesOf 1 0 ++ bytesOf 1 0 ++ bytesOf 1 0
      ++ bytesOf 1 0 := rfl

theorem configBytes_some (c : LaneConfig) : configBytes (some c) =
    bytesOf 1 1 ++ bytesOf 2 c.stream ++ bytesOf 1 c.kind.code ++ bytesOf 1 c.package ++ bytesOf 1 (c.keySlot.getD 255)
      ++ bytesOf 1 c.firstBlock ++ bytesOf 1 c.blockCount ++ bytesOf 1 c.watchCode := by
  rw [← optByte_eq_bytesOf]
  rfl

/-! ## Codes: the place of a value in its list (R199) -/

/-- The commands of section 10.2, in its order, and UNKNOWN. -/
def commandKinds : List CommandKind :=
  [.assignRoom, .restart, .loadLane, .setLaneResponse, .loadKey, .clearKey, .setPackages, .loadChannel, .loadRatingMap,
    .setCeiling, .setPin, .setUnlockMinutes, .loadPrice, .setBilling, .setCredit, .extendRental, .closeFolio,
    .loadSlate, .setCutMode, .poll, .settle, .clearNotices, .setNoticeMask, .unknown]

/-- SHOW and the slates in the order of the slate list. -/
def views : List View :=
  [.show, .slate .noSignal, .slate .noKey, .slate .notSubscribed, .slate .locked, .slate .pin, .slate .offer,
    .slate .credit, .slate .wait, .slate .unavailable]

theorem idxOf_commandKinds (k : CommandKind) : commandKinds.idxOf k = k.code := by cases k <;> rfl

theorem idxOf_views : ∀ v : View, views.idxOf v = v.code
  | .show => rfl
  | .slate k => by cases k <;> rfl

theorem idxOf_reasons (r : Reason) : [Reason.busy, .range, .conflict, .state, .stale, .full].idxOf r = r.code := by
  cases r <;> rfl

theorem idxOf_storeStates (x : StoreState) : [StoreState.ready, .busy, .closing, .full, .faulted].idxOf x = x.code := by
  cases x <;> rfl

theorem idxOf_recordStates (x : RecordState) :
    [RecordState.opened, .previewed, .committed, .reported, .settled].idxOf x = x.code := by
  cases x <;> rfl

theorem idxOf_laneKinds (k : LaneKind) : [LaneKind.picture, .sound].idxOf k = k.code := by cases k <;> rfl

theorem idxOf_responses (r : Response) : [Response.idle, .hold, .pass, .block].idxOf r = r.code := by cases r <;> rfl

theorem idxOf_watches (w : Watch) : [Watch.unarmed, .armed, .lost].idxOf w = w.code := by cases w <;> rfl

theorem idxOf_syncStates (x : SyncState) : [SyncState.search, .locked].idxOf x = x.code := by cases x <;> rfl

/-! ## Frames -/

theorem sumBytes_eq_sum (bs : List Byte) : sumBytes bs = bs.sum := List.sum_eq_foldl.symm

/-- Lead, type, length, content and check (R199). -/
theorem framed_eq (type : Byte) (content : List Byte) :
    framed type content = 0xA5 :: [type] ++ BitVec.ofNat 8 content.length :: content
      ++ [([type] ++ BitVec.ofNat 8 content.length :: content).sum] := by
  simp [framed, sumBytes_eq_sum]

/-- A content written as numbers one after another has their length and their layout. -/
theorem layout_of_eq {content : List Byte} {rows : List (Nat × Nat)} {length : Nat}
    (widths : (rows.map (·.1)).sum = length) (written : content = rows.flatMap fun r => bytesOf r.1 r.2) :
    content.length = length ∧ Layout content rows := by
  have laid := layout_of_bytes rows
  rw [← written] at laid
  exact ⟨laid.1.trans widths, laid⟩

/-- Settles O51: each content is its numbers one after another (`layout_of_eq`), a code being the place of its value in
the manual's list. -/
theorem frames_leave_in_order_with_their_check : Obligations.frames_leave_in_order_with_their_check := by
  intro s awake
  have leaves : exec .frameSent s = .next s.frameSent := State.act_awake _ s awake
  refine ⟨fun empty => by rw [leaves, State.frameSent, empty], fun f rest queue => ?_⟩
  intro flag opt kinds reasons views
  have kind : ∀ k, kinds.idxOf k = k.code := idxOf_commandKinds
  have reason : ∀ r, reasons.idxOf r = r.code := idxOf_reasons
  have view : ∀ v, views.idxOf v = v.code := idxOf_views
  refine ⟨by rw [leaves, State.frameSent, queue], ?_⟩
  cases f with
  | status f =>
    refine ⟨[0], f.bytes, framed_eq 0 _, rfl, layout_of_eq ?_ ?_⟩
    · simp
    · simp [StatusFrame.bytes, optByte_eq_bytesOf, boolByte_eq_bytesOf, kind, reason, view, idxOf_storeStates, flag,
        opt]
  | record f =>
    refine ⟨[1], f.bytes, framed_eq 1 _, rfl, layout_of_eq ?_ ?_⟩
    · simp
    · simp [RecordFrame.bytes, RecordFrame.presence, boolByte_eq_bytesOf, idxOf_recordStates, boolToNat_eq_ite, flag]
  | lane f =>
    refine ⟨[2], f.bytes, framed_eq 2 _, rfl, layout_of_eq ?_ ?_⟩
    · cases f.config <;> simp
    · -- the configuration decides nine bytes at the front, the key status a code and a second
      cases config : f.config <;> cases status : f.keyStatus <;> simp [LaneFrame.bytes, configBytes_none,
        configBytes_some, config, status, optByte_eq_bytesOf, boolByte_eq_bytesOf, KeyStatus.code,
        KeyStatus.startSecond, idxOf_laneKinds, idxOf_responses, idxOf_watches, idxOf_syncStates, flag, opt]

end Sys2Proof.Machine
end

section
/-!
PROOF. How the block takes a command from its queue, which settles O1.
-/

namespace Sys2Proof.Machine

variable {c : Instr} {rest : List Instr} {s : State}

/-- The front command is taken, and what it runs on holds the queue's rest. -/
theorem step_of_front (front : s.pending = c :: rest) : step s = exec c { s with pending := rest } := by
  rw [step, front]

/-- The block idles on an empty queue (log entry 3). -/
theorem step_of_empty (empty : s.pending = []) : step s = .next s := by
  rw [step, empty]

/-- Settles O1: one lemma for each form of the queue. -/
theorem step_takes_the_front_command : Obligations.step_takes_the_front_command :=
  ⟨fun _ _ _ front => step_of_front front, fun _ empty => step_of_empty empty⟩

end Sys2Proof.Machine
end
